-- ==== Sys2Proof/Word.lean ====
section
/-! DEFINITION. The word types of the oxiarc CORE (spec/00_scope.md R10: a byte is 8 bits, every quantity is unsigned). -/

namespace Sys2Proof

/-- A byte of the source, the sink, the window or the input buffer (R10). -/
abbrev Byte := BitVec 8

/-- A 32-bit word: a command operand, a result, a staging cell, a token word (R91, R93, R96). -/
abbrev Word := BitVec 32

end Sys2Proof
end

