-- ==== Sys2Proof/Config.lean ====
section
/-! DEFINITION. What an implementation fixes (the OPEN parameters of spec/92_eei_decisions.md, with the shape
spec/93_implementation_defined.md gives them) and the free values: constants with no body, which stand where the
spec says "any value" (U10, U13). The defaults of the parameters, which are what THIS hardware takes (R8), stand in
Machine/Defaults.lean. -/

namespace Sys2Proof.Config

/-- The reading of "MSB-first" (parameter `MSB_READING`, U1, D7): the literal one (each byte of the LSB-first stream
bit-reversed, R67), or the one set aside (the value's most significant bit first in stream order). -/
inductive MsbReading where
  | rev8
  | valueMsbFirst
deriving DecidableEq, Repr

/-- The kind the encoder gives a block; the numbers are the stream's (R107). -/
inductive BlockKind where
  | stored
  | fixedHuffman
  | dynamicHuffman
deriving DecidableEq, Repr

/-- What one level maps to (parameter `EFFORT`, R233): chain links followed per search, lazy threshold. -/
structure Effort where
  maxChain : Nat
  lazyThr  : Nat
deriving DecidableEq, Repr

/-- The named parameters of the model (INDEX.md; R8 rows of kind OPEN). A parameter is no state: it is fixed for one
machine. `OUTQ_CAP` and `IN_CAP` are at their default, unbounded, and have no field: the spec defines no behaviour
for a full buffer (U11). -/
structure Params where
  /-- `MSB_READING` (U1). -/
  msbReading : MsbReading
  /-- `HUFF_TIEBREAK` (U2): the id of the k-th merged node over an alphabet of n symbols (R198). -/
  mergedId : Nat → Nat → Nat
  /-- `HASH_BITS` (U4). -/
  hashBits : Nat
  /-- `HASH` (U4): a function of exactly three bytes (R234). -/
  hash : Byte → Byte → Byte → Nat
  /-- `EFFORT` (U4): level to effort (R233). -/
  effort : Nat → Effort
  /-- `BLOCK_MAX_TOKENS` (U6, R261). -/
  blockMaxTokens : Nat
  /-- `BLOCK_KIND_CHOICE` (U6): level, fixed, dynamic and stored cost to the kind (R272). -/
  kindChoice : Nat → Nat → Nat → Nat → BlockKind

/-- FREE VALUE. The byte in cell `a` of a byte memory whose contents became unspecified at generation `g` (U10). -/
opaque freeByte : Nat → Nat → Byte

/-- FREE VALUE. The 32-bit cell `a` of `STG` or `TOK` after generation `g` made the contents unspecified (U10). -/
opaque freeWord : Nat → Nat → Word

/-- FREE VALUE. The cell `a` of `MFH` or `MFP` after generation `g` made the contents unspecified (U10). -/
opaque freePos : Nat → Nat → Option Nat

/-- FREE VALUE. Whether slot `k` is left valid by the session that ended in a fault at generation `g` (U13, R341). -/
opaque freeValid : Nat → Nat → Bool

/-- FREE VALUE. The length array slot `k` holds after generation `g` (U10). -/
opaque freeLens : Nat → Nat → List (BitVec 4)

/-- FREE VALUE. `t.n` of slot `k` after generation `g` (U10). -/
opaque freeN : Nat → Nat → BitVec 9

/-- FREE VALUE. `t.limit` of slot `k` after generation `g` (U10). -/
opaque freeLimit : Nat → Nat → BitVec 4

/-- FREE VALUE. `t.maxlen` of slot `k` after generation `g` (U10). -/
opaque freeMaxlen : Nat → Nat → BitVec 4

end Sys2Proof.Config
end

