-- ==== Sys2Proof/Machine/Defaults.lean ====
section
/-! DEFINITION. What THIS hardware takes for the named parameters (R8 rows of kind OPEN, spec/92_eei_decisions.md D7,
D16, D29, D30, D33, D34). The machine's functions take the parameters as an argument; `exec` runs them with `params`. -/

namespace Sys2Proof.Machine

/-- The default hash (R234). -/
def hashDefault (b0 b1 b2 : Byte) : Nat :=
  ((b0.toNat <<< 10) ^^^ (b1.toNat <<< 5) ^^^ b2.toNat) &&& 0x7FFF

/-- The default effort table (R233). -/
def effortDefault : Nat → Config.Effort
  | 0 => { maxChain := 0, lazyThr := 0 }
  | 1 => { maxChain := 4, lazyThr := 0 }
  | 2 => { maxChain := 8, lazyThr := 0 }
  | 3 => { maxChain := 16, lazyThr := 0 }
  | 4 => { maxChain := 16, lazyThr := 4 }
  | 5 => { maxChain := 32, lazyThr := 16 }
  | 6 => { maxChain := 128, lazyThr := 16 }
  | 7 => { maxChain := 256, lazyThr := 32 }
  | 8 => { maxChain := 1024, lazyThr := 128 }
  | _ => { maxChain := 4096, lazyThr := 258 }

/-- The default tie-break (R198): the k-th merged node has the id n + k. -/
def mergedIdDefault (n k : Nat) : Nat := n + k

/-- The default choice of a block's kind (R272). -/
def kindChoiceDefault (level fixedCost dynCost storedCost : Nat) : Config.BlockKind :=
  if level = 0 then .stored
  else if storedCost < min fixedCost dynCost then .stored
  else if fixedCost ≤ dynCost then .fixedHuffman
  else .dynamicHuffman

/-- The parameters of this hardware. -/
def params : Config.Params :=
  { msbReading := .rev8, mergedId := mergedIdDefault, hashBits := 15, hash := hashDefault, effort := effortDefault
    blockMaxTokens := 16384, kindChoice := kindChoiceDefault }

end Sys2Proof.Machine
end

