-- ==== Sys2Proof/Syntax.lean ====
section
/-! DEFINITION. The commands of the CORE: one constructor per row of spec/opcode_table.json, with the operand
sub-fields of spec/30_encoding.md R92. A field has the width its encoding gives it, so a value outside the range a
command's rule states can be written (the hardware answers it with `ConfigMisuse`); WellFormed.lean says which
operands are in range. -/

namespace Sys2Proof

/-- `bc.mode` (R23): the channel owns the source or the sink. -/
inductive Mode where
  | read
  | write
deriving DecidableEq, Repr

/-- `bc.order` (R23, R66, R67). -/
inductive Order where
  | lsbFirst
  | msbFirst
deriving DecidableEq, Repr

/-- The direction of a session (R343): 0 decode, 1 encode. -/
inductive Direction where
  | decode
  | encode
deriving DecidableEq, Repr

/-- The 26 commands (R92). -/
inductive Instr where
  /-- `REG_READ number` (R352). -/
  | regRead (number : BitVec 8)
  /-- `CORE_RESET` (R353). -/
  | coreReset
  /-- `BC_INIT mode, order` (R141). -/
  | bcInit (mode : Mode) (order : Order)
  /-- `BC_WRITE_BITS value, count` (R144). -/
  | bcWriteBits (value : Word) (count : BitVec 6)
  /-- `BC_READ_BITS count` (R147). -/
  | bcReadBits (count : BitVec 6)
  /-- `BC_PEEK_BITS count` (R153). -/
  | bcPeekBits (count : BitVec 6)
  /-- `BC_ALIGN` (R155). -/
  | bcAlign
  /-- `BC_FLUSH` (R160). -/
  | bcFlush
  /-- `BC_CLOSE` (R163). -/
  | bcClose
  /-- `SW_INIT capacity` (R171). -/
  | swInit (capacity : BitVec 17)
  /-- `SW_PUSH byte` (R172). -/
  | swPush (byte : Byte)
  /-- `SW_GET offset` (R173). -/
  | swGet (offset : Word)
  /-- `SW_COPY distance, length` (R175). -/
  | swCopy (distance : Word) (length : Word)
  /-- `HC_STAGE index, value` (R191). -/
  | hcStage (index : BitVec 9) (value : Word)
  /-- `HC_BUILD_FREQ slot, n, limit` (R196). -/
  | hcBuildFreq (slot : BitVec 4) (n : BitVec 9) (limit : BitVec 4)
  /-- `HC_BUILD_LEN slot, n, limit` (R206). -/
  | hcBuildLen (slot : BitVec 4) (n : BitVec 9) (limit : BitVec 4)
  /-- `HC_ENCODE slot, symbol` (R212). -/
  | hcEncode (slot : BitVec 4) (symbol : BitVec 9)
  /-- `HC_DECODE slot` (R214). -/
  | hcDecode (slot : BitVec 4)
  /-- `HC_DISCARD slot` (R220). -/
  | hcDiscard (slot : BitVec 4)
  /-- `MF_INIT level` (R231). -/
  | mfInit (level : BitVec 4)
  /-- `MF_RUN last` (R235). -/
  | mfRun (last : Bool)
  /-- `MF_TOKEN index` (R250). -/
  | mfToken (index : Word)
  /-- `BK_INIT direction, level` (R343). -/
  | bkInit (direction : Direction) (level : BitVec 4)
  /-- `BK_COMPRESS level` (R349). -/
  | bkCompress (level : BitVec 4)
  /-- `BK_DECOMPRESS` (R350). -/
  | bkDecompress
  /-- `BK_FEED last, out_cap` (R345). -/
  | bkFeed (last : Bool) (outCap : Word)
deriving DecidableEq, Repr

end Sys2Proof
end

