-- ==== Sys2Proof/WellFormed.lean ====
section
/-! DEFINITION. Which commands have every operand in the range its rule states, judged from the command alone. A
command that is not well formed is still a command of the hardware: it is answered `ConfigMisuse` by its own rule
(spec/30_encoding.md R97, spec/60_exceptions.md R378). -/

namespace Sys2Proof

/-- The register numbers `REG_READ` knows (spec/10_state.md R22, R23, R27, R28, R29, R33, R36). -/
def Instr.listedRegister (number : Nat) : Bool :=
  number ≤ 0x01 || (0x10 ≤ number && number ≤ 0x17) || (0x20 ≤ number && number ≤ 0x22) || number == 0x30 ||
    (0x38 ≤ number && number ≤ 0x3C) || (0x40 ≤ number && number ≤ 0x46) || (0x50 ≤ number && number ≤ 0x5D)

/-- A slot a construction may write or a discard may name (R192, R220): 0, 1 or 2. -/
def Instr.buildable (slot n limit : Nat) : Bool :=
  slot ≤ 2 && 2 ≤ n && n ≤ 288 && 1 ≤ limit

/-- Every operand is in its stated range. -/
def Instr.wellFormed : Instr → Bool
  | .regRead number => Instr.listedRegister number.toNat
  | .coreReset => true
  | .bcInit _ _ => true
  | .bcWriteBits _ count => count.toNat ≤ 32
  | .bcReadBits count => count.toNat ≤ 32
  | .bcPeekBits count => count.toNat ≤ 32
  | .bcAlign => true
  | .bcFlush => true
  | .bcClose => true
  | .swInit capacity => 4096 ≤ capacity.toNat && capacity.toNat ≤ 65536
  | .swPush _ => true
  | .swGet _ => true
  | .swCopy _ _ => true
  | .hcStage index _ => index.toNat ≤ 319
  | .hcBuildFreq slot n limit => Instr.buildable slot.toNat n.toNat limit.toNat
  | .hcBuildLen slot n limit => Instr.buildable slot.toNat n.toNat limit.toNat
  | .hcEncode slot _ => slot.toNat ≤ 4
  | .hcDecode slot => slot.toNat ≤ 4
  | .hcDiscard slot => slot.toNat ≤ 2
  | .mfInit level => level.toNat ≤ 9
  | .mfRun _ => true
  | .mfToken _ => true
  | .bkInit direction level => direction == .decode || level.toNat ≤ 9
  | .bkCompress level => level.toNat ≤ 9
  | .bkDecompress => true
  | .bkFeed _ _ => true

end Sys2Proof
end

