-- ==== Sys2Proof/Decode.lean ====
section
/-! DEFINITION. The command word (spec/30_encoding.md R91): op in bits 71..64, operand a in bits 63..32, operand b in
bits 31..0. `decode` reads a word by the opcode map R92 and rejects a reserved op by name; `encode` writes the word of
a command from the same map. Bits a command does not use are ignored by `decode` and written as zero by `encode`. -/

namespace Sys2Proof

/-- Why a word is no command. -/
inductive DecodeError where
  /-- The op is not in the opcode map (R97). -/
  | reservedOpcode (op : BitVec 8)
deriving DecidableEq, Repr

/-- The opcode of a command word (R91). -/
def opOf (w : BitVec 72) : BitVec 8 := w.extractLsb' 64 8

/-- The first operand of a command word (R91). -/
def operandA (w : BitVec 72) : Word := w.extractLsb' 32 32

/-- The second operand of a command word (R91). -/
def operandB (w : BitVec 72) : Word := w.extractLsb' 0 32

/-- `a[0]` of `BC_INIT`: 0 READ, 1 WRITE (R92). -/
def modeOfBit (b : Bool) : Mode := if b then .write else .read

/-- `a[1]` of `BC_INIT`: 0 LSB_FIRST, 1 MSB_FIRST (R92). -/
def orderOfBit (b : Bool) : Order := if b then .msbFirst else .lsbFirst

/-- `a[0]` of `BK_INIT`: 0 decode, 1 encode (R92). -/
def directionOfBit (b : Bool) : Direction := if b then .encode else .decode

/-- The command a word stands for (R92), or the reserved opcode (R97). -/
def decode (w : BitVec 72) : Except DecodeError Instr :=
  let a := operandA w
  let b := operandB w
  match (opOf w).toNat with
  | 0x01 => .ok (.regRead (a.extractLsb' 0 8))
  | 0x02 => .ok .coreReset
  | 0x10 => .ok (.bcInit (modeOfBit (a.getLsbD 0)) (orderOfBit (a.getLsbD 1)))
  | 0x11 => .ok (.bcWriteBits a (b.extractLsb' 0 6))
  | 0x12 => .ok (.bcReadBits (b.extractLsb' 0 6))
  | 0x13 => .ok (.bcPeekBits (b.extractLsb' 0 6))
  | 0x14 => .ok .bcAlign
  | 0x15 => .ok .bcFlush
  | 0x16 => .ok .bcClose
  | 0x20 => .ok (.swInit (a.extractLsb' 0 17))
  | 0x21 => .ok (.swPush (a.extractLsb' 0 8))
  | 0x22 => .ok (.swGet a)
  | 0x23 => .ok (.swCopy a b)
  | 0x30 => .ok (.hcStage (a.extractLsb' 0 9) b)
  | 0x31 => .ok (.hcBuildFreq (a.extractLsb' 0 4) (a.extractLsb' 8 9) (b.extractLsb' 0 4))
  | 0x32 => .ok (.hcBuildLen (a.extractLsb' 0 4) (a.extractLsb' 8 9) (b.extractLsb' 0 4))
  | 0x33 => .ok (.hcEncode (a.extractLsb' 0 4) (b.extractLsb' 0 9))
  | 0x34 => .ok (.hcDecode (a.extractLsb' 0 4))
  | 0x35 => .ok (.hcDiscard (a.extractLsb' 0 4))
  | 0x40 => .ok (.mfInit (a.extractLsb' 0 4))
  | 0x41 => .ok (.mfRun (b.getLsbD 0))
  | 0x42 => .ok (.mfToken a)
  | 0x50 => .ok (.bkInit (directionOfBit (a.getLsbD 0)) (a.extractLsb' 4 4))
  | 0x51 => .ok (.bkCompress (a.extractLsb' 0 4))
  | 0x52 => .ok .bkDecompress
  | 0x53 => .ok (.bkFeed (a.getLsbD 0) b)
  | _ => .error (.reservedOpcode (opOf w))

/-- A command word from its three parts (R91). -/
def commandWord (op : BitVec 8) (a b : Word) : BitVec 72 := op ++ a ++ b

/-- The opcode of a command (R92). -/
def Instr.opcode : Instr → BitVec 8
  | .regRead _ => 0x01
  | .coreReset => 0x02
  | .bcInit _ _ => 0x10
  | .bcWriteBits _ _ => 0x11
  | .bcReadBits _ => 0x12
  | .bcPeekBits _ => 0x13
  | .bcAlign => 0x14
  | .bcFlush => 0x15
  | .bcClose => 0x16
  | .swInit _ => 0x20
  | .swPush _ => 0x21
  | .swGet _ => 0x22
  | .swCopy _ _ => 0x23
  | .hcStage _ _ => 0x30
  | .hcBuildFreq _ _ _ => 0x31
  | .hcBuildLen _ _ _ => 0x32
  | .hcEncode _ _ => 0x33
  | .hcDecode _ => 0x34
  | .hcDiscard _ => 0x35
  | .mfInit _ => 0x40
  | .mfRun _ => 0x41
  | .mfToken _ => 0x42
  | .bkInit _ _ => 0x50
  | .bkCompress _ => 0x51
  | .bkDecompress => 0x52
  | .bkFeed _ _ => 0x53

/-- The bit of a mode, an order and a direction (R92). -/
def Mode.bit : Mode → Bool
  | .read => false
  | .write => true

/-- The bit of an order (R92). -/
def Order.bit : Order → Bool
  | .lsbFirst => false
  | .msbFirst => true

/-- The bit of a direction (R92). -/
def Direction.bit : Direction → Bool
  | .decode => false
  | .encode => true

/-- The first operand of a command (R92), unused bits zero. -/
def Instr.encodeA : Instr → Word
  | .regRead number => number.setWidth 32
  | .coreReset => 0
  | .bcInit mode order => (BitVec.ofBool order.bit ++ BitVec.ofBool mode.bit : BitVec 2).setWidth 32
  | .bcWriteBits value _ => value
  | .bcReadBits _ => 0
  | .bcPeekBits _ => 0
  | .bcAlign => 0
  | .bcFlush => 0
  | .bcClose => 0
  | .swInit capacity => capacity.setWidth 32
  | .swPush byte => byte.setWidth 32
  | .swGet offset => offset
  | .swCopy distance _ => distance
  | .hcStage index _ => index.setWidth 32
  | .hcBuildFreq slot n _ => (n ++ (0#4 ++ slot) : BitVec 17).setWidth 32
  | .hcBuildLen slot n _ => (n ++ (0#4 ++ slot) : BitVec 17).setWidth 32
  | .hcEncode slot _ => slot.setWidth 32
  | .hcDecode slot => slot.setWidth 32
  | .hcDiscard slot => slot.setWidth 32
  | .mfInit level => level.setWidth 32
  | .mfRun _ => 0
  | .mfToken index => index
  | .bkInit direction level => (level ++ (0#3 ++ BitVec.ofBool direction.bit) : BitVec 8).setWidth 32
  | .bkCompress level => level.setWidth 32
  | .bkDecompress => 0
  | .bkFeed last _ => (BitVec.ofBool last).setWidth 32

/-- The second operand of a command (R92), unused bits zero. -/
def Instr.encodeB : Instr → Word
  | .regRead _ => 0
  | .coreReset => 0
  | .bcInit _ _ => 0
  | .bcWriteBits _ count => count.setWidth 32
  | .bcReadBits count => count.setWidth 32
  | .bcPeekBits count => count.setWidth 32
  | .bcAlign => 0
  | .bcFlush => 0
  | .bcClose => 0
  | .swInit _ => 0
  | .swPush _ => 0
  | .swGet _ => 0
  | .swCopy _ length => length
  | .hcStage _ value => value
  | .hcBuildFreq _ _ limit => limit.setWidth 32
  | .hcBuildLen _ _ limit => limit.setWidth 32
  | .hcEncode _ symbol => symbol.setWidth 32
  | .hcDecode _ => 0
  | .hcDiscard _ => 0
  | .mfInit _ => 0
  | .mfRun last => (BitVec.ofBool last).setWidth 32
  | .mfToken _ => 0
  | .bkInit _ _ => 0
  | .bkCompress _ => 0
  | .bkDecompress => 0
  | .bkFeed _ outCap => outCap

/-- The command word of a command (R91, R92). -/
def encode (i : Instr) : BitVec 72 := commandWord i.opcode i.encodeA i.encodeB

/-- The command in an instruction given as `nbits` table bits `w` (bits above them zero). A command is one 72-bit word,
so the table's numbering is the word's own (R91). -/
def decodeTableWord (nbits w : Nat) : Option Instr :=
  match decode (BitVec.ofNat 72 (w % 2 ^ nbits)) with
  | .ok i => some i
  | .error _ => none

end Sys2Proof
end

