-- ==== Sys2Proof/Machine/State.lean ====
section
/-! DEFINITION. Everything the spec gives the machine, as plain data (spec/10_state.md; the list is INVENTORY.md's
"State"), the state after reset (R39, R410), and the reasons a step can stop. -/

namespace Sys2Proof.Machine

/-- The error kinds (R94). -/
inductive ErrKind where
  | unexpectedEndOfInput
  | invalidCode
  | invalidDistance
  | invalidStoredLength
  | tableConstructionFailed
  | configMisuse
deriving DecidableEq, Repr

/-- `bk.phase` (R24). The values 14, 15 and 18 to 31 never occur, so they are no constructors. -/
inductive Phase where
  | idle
  | header
  | storedLen
  | storedCopy
  | dynHdr
  | dynCl
  | dynLens
  | symbol
  | lenExtra
  | distSym
  | distExtra
  | copy
  | done
  | fault
  | encRun
  | encFinish
deriving DecidableEq, Repr

/-- What a cell of a memory holds that no single write has set: the value an init command wrote to all cells, or
nothing the spec states (U10), told apart by the generation at which the contents became unspecified. -/
inductive Fill (α : Type) where
  | all (value : α)
  | unspecified (generation : Nat)
deriving DecidableEq, Repr

/-- An internal memory (R60): the cells written one by one, addresses strictly rising, no entry equal to what an
unlisted address reads as (`Mem.wf` in Ops.lean). -/
structure Mem (α : Type) where
  fill  : Fill α
  cells : List (Nat × α)
deriving DecidableEq, Repr

/-- `core.err`, `core.err_unit`, `core.err_info` (R22). -/
structure ErrRegs where
  kind : BitVec 8
  unit : BitVec 8
  info : Word
deriving DecidableEq, Repr

/-- The BitChannel (R23). -/
structure Bc where
  mode    : Mode
  order   : Order
  opened  : Bool
  flushed : Bool
  acc     : BitVec 64
  nbits   : Nat
  total   : Nat
  nbytes  : Nat
deriving DecidableEq, Repr

/-- The SlidingWindow (R29). `win` is the address space `WIN`; its cells are `Host.Cell`s. -/
structure Sw where
  cap    : Nat
  cursor : Nat
  win    : Mem Byte
deriving DecidableEq, Repr

/-- One Huffman table (R32). `t.count` and `t.lut` are functions of `len` and `code` (Huffman.lean). -/
structure Table where
  valid  : Bool
  n      : Nat
  limit  : Nat
  maxlen : Nat
  len    : List Nat
  code   : List Nat
deriving DecidableEq, Repr

/-- The HuffmanCoder (R33, R35): the three slots that can be built and the staging memory `STG`. Slots 3 and 4 are
constant ("never written, never discarded") and are read through `State.table` (Huffman.lean). -/
structure Hc where
  slot0 : Table
  slot1 : Table
  slot2 : Table
  stg   : Mem Word
deriving DecidableEq, Repr

/-- The MatchFinder (R36). `mf.known` is the length of `input` (`IN`), `mf.ntok` the length of `tok` (`TOK`). A cell
of `MFH` or `MFP` is `none` for `NIL`. -/
structure Mf where
  level    : Nat
  opened   : Bool
  last     : Bool
  maxChain : Nat
  lazyThr  : Nat
  pos      : Nat
  mfh      : Mem (Option Nat)
  mfp      : Mem (Option Nat)
  input    : List Byte
  tok      : List Word
deriving DecidableEq, Repr

/-- The BlockCodec registers (R24, R27). -/
structure Bk where
  phase     : Phase
  dir       : Direction
  level     : Nat
  final     : Bool
  kind      : BitVec 2
  last      : Bool
  storedRem : Nat
  copyRem   : Nat
  dist      : Nat
  length    : Nat
  lenSym    : Nat
  distSym   : Nat
  nlit      : Nat
  ndist     : Nat
  ncl       : Nat
  idx       : Nat
  outTotal  : Nat
  inTotal   : Nat
  blkStart  : Nat
  ntok      : Nat
deriving DecidableEq, Repr

/-- One response of the command port (R93). -/
structure Response where
  err : BitVec 8
  aux : BitVec 8
  r0  : Word
  r1  : Word
deriving DecidableEq, Repr

/-- What the host does to the CORE, in the order it does it (R13): issue a command word, put bytes at the source port,
pull the reset input (R410). -/
inductive HostAction where
  | command (w : BitVec 72)
  | supply (bytes : List Byte)
  | resetInput
deriving DecidableEq, Repr

/-- The CORE's ports (R13, R62, R63, R90): what the host is still going to do, the bytes present at the source, the
bytes put to the sink so far with the number of them the last `SinkFlush()` committed and the number of `SinkFlush()`
calls, and the responses given so far, oldest first. -/
structure Port where
  script    : List HostAction
  src       : List Byte
  sink      : List Byte
  committed : Nat
  flushes   : Nat
  responses : List Response
deriving DecidableEq, Repr

/-- The machine. `gen` is the model's own counter for the free values of Config.lean: the generation the next memory
that becomes unspecified takes. -/
structure State where
  err  : ErrRegs
  bc   : Bc
  sw   : Sw
  hc   : Hc
  mf   : Mf
  bk   : Bk
  outq : List Byte
  port : Port
  gen  : Nat
deriving DecidableEq, Repr

/-- The named reasons a step stops with a fault. None of them is a fault of the hardware (a fault of the hardware is a
response, R386): each marks a state that no run reaches. -/
inductive Fault where
  /-- Raised by `BK_FEED` and `BK_DECOMPRESS` when the decoder engine is run in a phase that has no decoder micro-step
  (`bk.dir` says decode and `bk.phase` is `IDLE`, `FAULT` or an encoder phase). No run reaches it; stopping is safe. -/
  | noMicroStep
  /-- Raised by the decoder engine if its step budget runs out; the budget bounds every run (R431), so no state reaches
  it. Stopping is safe. -/
  | engineBudget
deriving DecidableEq, Repr

/-- The named reasons a command is refused. -/
inductive Refusal where
  /-- Raised only by an arm of `exec` whose instruction has no meaning yet; safe. -/
  | notModelled (mnemonic : String)
  /-- Raised by any command that would carry a data counter past the top of its range: such a run "is outside the
  contract; the model rejects the command that would do it" (U9, R26, R165). Safe: the model stops. -/
  | counterOverflow
deriving DecidableEq, Repr

/-- An empty table memory: not valid, `n`, `limit`, `maxlen` zero (R39, R410). -/
def Table.blank : Table := { valid := false, n := 0, limit := 0, maxlen := 0, len := [], code := [] }

/-- A memory with nothing listed whose contents are unspecified since generation `g` (U10). -/
def Mem.unspecified {α : Type} (g : Nat) : Mem α := { fill := .unspecified g, cells := [] }

/-- The BitChannel after reset (R39). -/
def Bc.reset : Bc :=
  { mode := .read, order := .lsbFirst, opened := false, flushed := false, acc := 0, nbits := 0, total := 0, nbytes := 0 }

/-- The SlidingWindow after reset (R39), its bytes unspecified since generation `g`. -/
def Sw.reset (g : Nat) : Sw := { cap := 0, cursor := 0, win := .unspecified g }

/-- The HuffmanCoder after reset (R39): slots 0 to 2 invalid. -/
def Hc.reset (g : Nat) : Hc := { slot0 := .blank, slot1 := .blank, slot2 := .blank, stg := .unspecified g }

/-- The MatchFinder after reset (R39). -/
def Mf.reset (g : Nat) : Mf :=
  { level := 0, opened := false, last := false, maxChain := 0, lazyThr := 0, pos := 0, mfh := .unspecified g
    mfp := .unspecified g, input := [], tok := [] }

/-- The BlockCodec after reset (R39): every register 0, `bk.phase = IDLE`. -/
def Bk.reset : Bk :=
  { phase := .idle, dir := .decode, level := 0, final := false, kind := 0, last := false, storedRem := 0, copyRem := 0
    dist := 0, length := 0, lenSym := 0, distSym := 0, nlit := 0, ndist := 0, ncl := 0, idx := 0, outTotal := 0
    inTotal := 0, blkStart := 0, ntok := 0 }

/-- The ports before the host has done anything. -/
def Port.empty : Port := { script := [], src := [], sink := [], committed := 0, flushes := 0, responses := [] }

/-- The machine right after power-on reset (R39, R410). -/
def State.reset : State :=
  { err := { kind := 0, unit := 0, info := 0 }, bc := .reset, sw := .reset 0, hc := .reset 0, mf := .reset 0
    bk := .reset, outq := [], port := .empty, gen := 1 }

end Sys2Proof.Machine
end

