-- ==== Sys2Proof/Machine/Ops.lean ====
section
/-! DEFINITION. The named operations every command is written over: bit reversal, the cells of an internal memory, the
source and sink ports, the response, the fault entry (R386), the counter check (U9), and what becomes unspecified at
the end of a session (U10, U13). There is no return from a fault: the CORE runs no handler (R387). -/

namespace Sys2Proof.Machine

/-! ### Bits -/

/-- `rev_n(v)` (R11): bit `i` of the result is bit `n-1-i` of `v`. -/
def revBits : Nat → Nat → Nat
  | 0, _ => 0
  | n + 1, v => v % 2 * 2 ^ n + revBits n (v / 2)

/-- `rev8(b)` (R11). -/
def rev8 (b : Byte) : Byte := BitVec.ofNat 8 (revBits 8 b.toNat)

/-- `v and mask(n)` (R11). -/
def lowBits {w : Nat} (n : Nat) (v : BitVec w) : BitVec w := v &&& BitVec.ofNat w (2 ^ n - 1)

/-! ### Memories -/

/-- The entry for an address, in an address-sorted list. -/
def Mem.find {α : Type} : List (Nat × α) → Nat → Option α
  | [], _ => none
  | (a', v) :: rest, a => if a = a' then some v else if a < a' then none else find rest a

/-- `MemRead(SPACE, a, 1)` (R61). A cell that nothing has written reads as the init command left it, or as the free
value `free generation a` (U10). -/
def Mem.get {α : Type} (free : Nat → Nat → α) (m : Mem α) (a : Nat) : α :=
  match Mem.find m.cells a with
  | some v => v
  | none =>
    match m.fill with
    | .all v => v
    | .unspecified g => free g a

/-- The list with an entry for an address put in or replaced. -/
def Mem.insertCell {α : Type} (a : Nat) (v : α) : List (Nat × α) → List (Nat × α)
  | [] => [(a, v)]
  | (a', v') :: rest =>
    if a < a' then (a, v) :: (a', v') :: rest
    else if a = a' then (a, v) :: rest
    else (a', v') :: insertCell a v rest

/-- The list without the entry for an address. -/
def Mem.eraseCell {α : Type} (a : Nat) : List (Nat × α) → List (Nat × α)
  | [] => []
  | (a', v') :: rest => if a = a' then rest else if a < a' then (a', v') :: rest else (a', v') :: eraseCell a rest

/-- `MemWrite(SPACE, a, 1, v)` (R61), keeping the canonical form. -/
def Mem.set {α : Type} [DecidableEq α] (m : Mem α) (a : Nat) (v : α) : Mem α :=
  match m.fill with
  | .all u => if v = u then { m with cells := Mem.eraseCell a m.cells } else { m with cells := Mem.insertCell a v m.cells }
  | .unspecified _ => { m with cells := Mem.insertCell a v m.cells }

/-- `MemWrite` of consecutive cells from address `a` on, one cell at a time (R61). -/
def Mem.setList {α : Type} [DecidableEq α] (m : Mem α) (a : Nat) : List α → Mem α
  | [] => m
  | v :: rest => (m.set a v).setList (a + 1) rest

/-- Addresses strictly rising, from `lo` on. -/
def Mem.rising {α : Type} : Nat → List (Nat × α) → Bool
  | _, [] => true
  | lo, (a, _) :: rest => lo ≤ a && rising (a + 1) rest

/-- The canonical form: addresses strictly rising, no entry equal to what an unlisted address reads as. -/
def Mem.wf {α : Type} [DecidableEq α] (m : Mem α) : Bool :=
  Mem.rising 0 m.cells &&
    match m.fill with
    | .all u => m.cells.all fun c => decide (c.2 ≠ u)
    | .unspecified _ => true

/-- Every listed address is below a bound: no access has left the memory's address range (R60, R334). -/
def Mem.below {α : Type} (bound : Nat) (m : Mem α) : Bool := m.cells.all fun c => c.1 < bound

/-! ### Error kinds, phases, responses -/

/-- The number of an error kind (R94). -/
def ErrKind.code : ErrKind → BitVec 8
  | .unexpectedEndOfInput => 1
  | .invalidCode => 2
  | .invalidDistance => 3
  | .invalidStoredLength => 4
  | .tableConstructionFailed => 5
  | .configMisuse => 6

/-- The number of a phase (R24). -/
def Phase.code : Phase → Nat
  | .idle => 0
  | .header => 1
  | .storedLen => 2
  | .storedCopy => 3
  | .dynHdr => 4
  | .dynCl => 5
  | .dynLens => 6
  | .symbol => 7
  | .lenExtra => 8
  | .distSym => 9
  | .distExtra => 10
  | .copy => 11
  | .done => 12
  | .fault => 13
  | .encRun => 16
  | .encFinish => 17

/-- A session is open while the phase is none of `IDLE`, `DONE`, `FAULT` (R21, R340). -/
def Phase.isOpen : Phase → Bool
  | .idle => false
  | .done => false
  | .fault => false
  | .header => true
  | .storedLen => true
  | .storedCopy => true
  | .dynHdr => true
  | .dynCl => true
  | .dynLens => true
  | .symbol => true
  | .lenExtra => true
  | .distSym => true
  | .distExtra => true
  | .copy => true
  | .encRun => true
  | .encFinish => true

/-- Whether a BlockCodec session owns units 1 to 4 (R21, R341). -/
def State.sessionOpen (s : State) : Bool := s.bk.phase.isOpen

/-- The response word (R93): `err` in bits 79..72, `aux` in 71..64, `r0` in 63..32, `r1` in 31..0. -/
def Response.word (r : Response) : BitVec 80 := r.err ++ r.aux ++ r.r0 ++ r.r1

/-- `respond(err, aux, r0, r1)` (R11): deliver a response to the host. -/
def State.respond (s : State) (r : Response) : State :=
  { s with port := { s.port with responses := s.port.responses ++ [r] } }

/-- Complete a command without fault: `err = 0`, `aux = 0` (R93). -/
def State.ok (s : State) (r0 r1 : Nat) : State :=
  s.respond { err := 0, aux := 0, r0 := BitVec.ofNat 32 r0, r1 := BitVec.ofNat 32 r1 }

/-! ### Source and sink -/

/-- `SinkPut` of a sequence of bytes at the external sink (R63). -/
def State.sinkPut (s : State) (bytes : List Byte) : State :=
  { s with port := { s.port with sink := s.port.sink ++ bytes } }

/-- `SinkFlush()` at the external sink (R63): every byte put so far is committed; no byte is added. -/
def State.sinkFlush (s : State) : State :=
  { s with port := { s.port with committed := s.port.sink.length, flushes := s.port.flushes + 1 } }

/-- Leave `src` at the source port: the bytes before it have been taken (R62). -/
def State.setSrc (s : State) (src : List Byte) : State := { s with port := { s.port with src := src } }

/-! ### The fault entry -/

/-- What a `raise E(info)` carries (R372, R386): the kind, the unit whose rule raised it, the recorded value. -/
structure Raised where
  kind : ErrKind
  unit : Nat
  info : Nat
deriving DecidableEq, Repr

/-- The fault entry's registers (R386): `core.err`, `core.err_unit`, `core.err_info` (low 32 bits of the value). -/
def State.recordFault (s : State) (f : Raised) : State :=
  { s with err := { kind := f.kind.code, unit := BitVec.ofNat 8 f.unit, info := BitVec.ofNat 32 f.info } }

/-- The fault entry of a command outside the engines (R386): the registers, then the response with `r0 = info`,
`r1 = 0`. -/
def State.raiseDirect (s : State) (f : Raised) : State :=
  (s.recordFault f).respond { err := f.kind.code, aux := 0, r0 := BitVec.ofNat 32 f.info, r1 := 0 }

/-- The fault entry with byte counts in the response (R348, R93): the session commands report them instead. -/
def State.raiseCounts (s : State) (f : Raised) (r0 r1 : Nat) : State :=
  (s.recordFault f).respond { err := f.kind.code, aux := 0, r0 := BitVec.ofNat 32 r0, r1 := BitVec.ofNat 32 r1 }

/-- The unit recorded for a refused opcode (R372): its unit nibble, 0 for a reserved unit. -/
def unitOfOp (op : Nat) : Nat := if op / 16 ≤ 5 then op / 16 else 0

/-- A refused command whose rule names no recorded value (R378): `ConfigMisuse` with `core.err_info = op`. -/
def State.misuse (s : State) (op : BitVec 8) : State :=
  s.raiseDirect { kind := .configMisuse, unit := unitOfOp op.toNat, info := op.toNat }

/-- A refused command whose rule names the recorded value (R378). -/
def State.misuseWith (s : State) (op : BitVec 8) (info : Nat) : State :=
  s.raiseDirect { kind := .configMisuse, unit := unitOfOp op.toNat, info := info }

/-! ### Counters -/

/-- No data counter is past the top of its range: 64 bits each (R26, R165, U9), `mf.ntok` 32 bits (R36, R395). -/
def State.countersFit (s : State) : Bool :=
  s.bc.total < 2 ^ 64 && s.bc.nbytes < 2 ^ 64 && s.sw.cursor < 2 ^ 64 && s.mf.pos < 2 ^ 64 &&
    s.mf.input.length < 2 ^ 64 && s.bk.inTotal < 2 ^ 64 && s.bk.outTotal < 2 ^ 64 && s.bk.blkStart < 2 ^ 64 &&
    s.mf.tok.length < 2 ^ 32

/-- The end of a command that moves a counter: the model rejects a command that would carry one past the top of its
range (U9). -/
def State.finish (s : State) : Host.Outcome State Fault Refusal :=
  if s.countersFit then .next s else .refused .counterOverflow

end Sys2Proof.Machine
end

