-- ==== Sys2Proof/Machine/BitChannel.lean ====
section
/-! DEFINITION. BitChannel, unit 1 (spec/41_bit_channel.md): the helper functions the other units use (R143), which say
what happens to the channel and which bytes pass, and the seven commands. -/

namespace Sys2Proof.Machine

/-! ### Helper functions -/

/-- The order in which a value's bits enter the stream: as they are (R66, R67 literal reading); under the parameter's
other reading an MSB-first channel sends the value's most significant bit first (U1). -/
def Bc.valueBits (P : Config.Params) (c : Bc) (count : Nat) (x : Word) : Word :=
  match c.order, P.msbReading with
  | .msbFirst, .valueMsbFirst => BitVec.ofNat 32 (revBits count x.toNat)
  | .msbFirst, .rev8 => x
  | .lsbFirst, .valueMsbFirst => x
  | .lsbFirst, .rev8 => x

/-- The byte-to-accumulator map of the channel's order (R145, R146, R148, R151): the byte itself, or `rev8` of it. -/
def Bc.ordered (c : Bc) (b : Byte) : Byte :=
  match c.order with
  | .lsbFirst => b
  | .msbFirst => rev8 b

/-- The loop of `bc_write` (R145): put `k` full bytes, the lowest bits of the accumulator first. -/
def Bc.emit : Nat → Bc → Bc × List Byte
  | 0, c => (c, [])
  | k + 1, c =>
    let r := Bc.emit k { c with acc := c.acc >>> 8, nbits := c.nbits - 8, nbytes := c.nbytes + 1 }
    (r.1, c.ordered (c.acc.setWidth 8) :: r.2)

/-- The first half of `bc_write(v, n)` (R145): the low `n` bits of `v` join the pending bits. -/
def Bc.accept (P : Config.Params) (c : Bc) (v : Word) (n : Nat) : Bc :=
  { c with
    acc := c.acc ||| ((c.valueBits P n (lowBits n v)).setWidth 64 <<< c.nbits)
    nbits := c.nbits + n
    total := c.total + n }

/-- `bc_write(v, n)` (R145): the channel afterwards and the bytes put, in order. -/
def Bc.write (P : Config.Params) (c : Bc) (v : Word) (n : Nat) : Bc × List Byte :=
  Bc.emit ((c.nbits + n) / 8) (c.accept P v n)

/-- One byte taken from the source enters the accumulator (R148). -/
def Bc.takeByte (c : Bc) (b : Byte) : Bc :=
  { c with acc := c.acc ||| ((c.ordered b).setWidth 64 <<< c.nbits), nbits := c.nbits + 8, nbytes := c.nbytes + 1 }

/-- `bc_need(n)` (R148), the minimal fetch: bytes are taken only while fewer than `n` bits are pending. It gives the
channel and what is left at the source; it fell short exactly when the channel then holds fewer than `n` bits. -/
def Bc.need (n : Nat) : Bc → List Byte → Bc × List Byte
  | c, [] => (c, [])
  | c, b :: rest => if c.nbits < n then Bc.need n (c.takeByte b) rest else (c, b :: rest)

/-- The value `bc_peek(n)` gives once `n` bits are pending (R147). -/
def Bc.peek (P : Config.Params) (c : Bc) (n : Nat) : Word :=
  c.valueBits P n ((lowBits n c.acc).setWidth 32)

/-- `bc_skip(n)` (R147). -/
def Bc.skip (c : Bc) (n : Nat) : Bc :=
  { c with acc := c.acc >>> n, nbits := c.nbits - n, total := c.total + n }

/-- The number of zero bits `bc_align` adds in WRITE mode (R156). -/
def Bc.padding (c : Bc) : Nat := (8 - c.nbits) % 8

/-- `bc_align()` in WRITE mode (R156): the channel and the bytes put. -/
def Bc.alignWrite (P : Config.Params) (c : Bc) : Bc × List Byte := c.write P 0 c.padding

/-- The number of bits `bc_align` discards in READ mode (R157). -/
def Bc.partialBits (c : Bc) : Nat := c.nbits % 8

/-- `bc_align()` in READ mode (R157). -/
def Bc.alignRead (c : Bc) : Bc := c.skip c.partialBits

/-- The channel as `BC_INIT` makes it (R141). -/
def Bc.init (mode : Mode) (order : Order) : Bc :=
  { mode := mode, order := order, opened := true, flushed := false, acc := 0, nbits := 0, total := 0, nbytes := 0 }

/-- The channel bc and the source src of a state after a fetch. -/
def State.setChannel (s : State) (r : Bc × List Byte) : State := { s.setSrc r.2 with bc := r.1 }

/-- The channel and the bytes put to the external sink of a state after a write. -/
def State.putChannel (s : State) (r : Bc × List Byte) : State := { s.sinkPut r.2 with bc := r.1 }

/-- `bc_flush()` outside an encode session (R160): align, `SinkFlush()`, mark the channel flushed. -/
def State.bcFlush (P : Config.Params) (s : State) : State :=
  let s1 := (s.putChannel (s.bc.alignWrite P)).sinkFlush
  { s1 with bc := { s1.bc with flushed := true } }

/-- `UnexpectedEndOfInput` of `bc_need` (R148, R372): the number of missing bits. -/
def endOfInput (missing : Nat) : Raised := { kind := .unexpectedEndOfInput, unit := 1, info := missing }

/-! ### Checks common to the commands (R140) -/

/-- R140 (1) and (2): a session owns the unit, or the channel is not open. -/
def State.bcClosed (s : State) : Bool := s.sessionOpen || !s.bc.opened

/-- R140 (1) to (4) for a command that needs a mode and has a count. -/
def State.bcRefuses (s : State) (mode : Mode) (count : Nat) : Bool :=
  s.bcClosed || s.bc.mode != mode || decide (32 < count)

/-! ### Commands -/

/-- `BC_INIT mode, order` (R141). -/
def execBcInit (mode : Mode) (order : Order) (s : State) : Host.Outcome State Fault Refusal :=
  if s.sessionOpen then .next (s.misuse 0x10)
  else .next ({ s with bc := Bc.init mode order }.ok 0 0)

/-- `BC_WRITE_BITS value, count` (R144). -/
def execBcWriteBits (value : Word) (count : BitVec 6) (s : State) : Host.Outcome State Fault Refusal :=
  if s.bcRefuses .write count.toNat || s.bc.flushed then .next (s.misuse 0x11)
  else ((s.putChannel (s.bc.write params value count.toNat)).ok 0 0).finish

/-- `BC_READ_BITS count` (R147, R149). -/
def execBcReadBits (count : BitVec 6) (s : State) : Host.Outcome State Fault Refusal :=
  if s.bcRefuses .read count.toNat then .next (s.misuse 0x12)
  else
    let s1 := s.setChannel (Bc.need count.toNat s.bc s.port.src)
    if s1.bc.nbits < count.toNat then (s1.raiseDirect (endOfInput (count.toNat - s1.bc.nbits))).finish
    else ({ s1 with bc := s1.bc.skip count.toNat }.ok (s1.bc.peek params count.toNat).toNat 0).finish

/-- `BC_PEEK_BITS count` (R153, R149). -/
def execBcPeekBits (count : BitVec 6) (s : State) : Host.Outcome State Fault Refusal :=
  if s.bcRefuses .read count.toNat then .next (s.misuse 0x13)
  else
    let s1 := s.setChannel (Bc.need count.toNat s.bc s.port.src)
    if s1.bc.nbits < count.toNat then (s1.raiseDirect (endOfInput (count.toNat - s1.bc.nbits))).finish
    else (s1.ok (s1.bc.peek params count.toNat).toNat 0).finish

/-- `BC_ALIGN` (R155): in WRITE mode R156, in READ mode R157. -/
def execBcAlign (s : State) : Host.Outcome State Fault Refusal :=
  if s.bcClosed then .next (s.misuse 0x14)
  else
    match s.bc.mode with
    | .write =>
      if s.bc.flushed then .next (s.misuse 0x14)
      else ((s.putChannel (s.bc.alignWrite params)).ok s.bc.padding 0).finish
    | .read => ({ s with bc := s.bc.alignRead }.ok s.bc.partialBits 0).finish

/-- `BC_FLUSH` (R160, R161). -/
def execBcFlush (s : State) : Host.Outcome State Fault Refusal :=
  if s.bcRefuses .write 0 then .next (s.misuse 0x15)
  else ((s.bcFlush params).ok s.bc.padding 0).finish

/-- `BC_CLOSE` (R163): an implicit flush of a writing channel that was not flushed, then the channel is closed. -/
def execBcClose (s : State) : Host.Outcome State Fault Refusal :=
  if s.bcClosed then .next (s.misuse 0x16)
  else
    let s1 := if s.bc.mode = .write && !s.bc.flushed then s.bcFlush params else s
    ({ s1 with bc := { s1.bc with opened := false } }.ok 0 0).finish

end Sys2Proof.Machine
end

