-- ==== Sys2Proof/Machine/Huffman.lean ====
section
/-! DEFINITION. HuffmanCoder, unit 3 (spec/43_huffman_coder.md): construction from frequencies (greedy, then
package-merge) and from lengths, the canonical assignment, encode, decode, the look-up structure, and the six
commands. -/

namespace Sys2Proof.Machine

/-! ### Canonical assignment (R208) -/

/-- `t.count[l]` (R32, R208): the number of symbols of length `l`. -/
def lenCount (len : List Nat) (l : Nat) : Nat := len.count l

/-- The list `next[l], next[l+1], …` of `k` entries of R208, from `next[l] = cur` on: the first code of each length. -/
def codeStarts (len : List Nat) : Nat → Nat → Nat → List Nat
  | 0, _, _ => []
  | k + 1, l, cur => cur :: codeStarts len k (l + 1) ((cur + if l = 0 then 0 else lenCount len l) * 2)

/-- `first[0 .. 15]` (R208). -/
def firstCodes (len : List Nat) : List Nat := codeStarts len 16 0 0

/-- `first[l]` (R208), the first code of length `l`. -/
def firstCode (len : List Nat) (l : Nat) : Nat := (firstCodes len).getD l 0

/-- The last loop of R208: consecutive codes within a length, in symbol order. -/
def assignCodes : List Nat → List Nat → List Nat
  | [], _ => []
  | l :: rest, next =>
    if l = 0 then 0 :: assignCodes rest next
    else next.getD l 0 :: assignCodes rest (next.set l (next.getD l 0 + 1))

/-- The longest length of an array, 0 for none. -/
def maxLen (len : List Nat) : Nat := len.foldl max 0

/-- A table of the given lengths with the canonical codes (R208), valid. -/
def Table.ofLens (limit : Nat) (len : List Nat) : Table :=
  { valid := true, n := len.length, limit := limit, maxlen := maxLen len, len := len
    code := assignCodes len (firstCodes len) }

/-! ### Construction from lengths (R206, R207) -/

/-- The integer Kraft sum `K` (R193, R206). -/
def kraftSum (limit : Nat) (len : List Nat) : Nat := (len.map fun l => if l = 0 then 0 else 2 ^ (limit - l)).sum

/-- What a construction answers: a table, or the value recorded by `TableConstructionFailed`. -/
inductive Built where
  | table (t : Table)
  | failed (info : Nat)
deriving DecidableEq, Repr

/-- `hc_build_len` on a length array (R206): a length above the limit first, then the Kraft equality. -/
def buildLen (limit : Nat) (len : List Nat) : Built :=
  match len.findIdx? (fun l => decide (limit < l)) with
  | some s => .failed s
  | none => if kraftSum limit len = 2 ^ limit then .table (Table.ofLens limit len) else .failed (kraftSum limit len)

/-! ### Construction from frequencies (R196 to R204) -/

/-- The tree the greedy combination grows (R197). -/
inductive HTree where
  | leaf (symbol : Nat)
  | node (left right : HTree)
deriving DecidableEq, Repr

/-- A node of the pool: weight, id, the tree below it (R197). -/
structure HNode where
  w    : Nat
  id   : Nat
  tree : HTree
deriving DecidableEq, Repr

/-- The used symbols of a frequency array with their frequencies, in symbol order, numbered from `s` on (R193). -/
def usedFrom : Nat → List Nat → List (Nat × Nat)
  | _, [] => []
  | s, f :: rest => if f = 0 then usedFrom (s + 1) rest else (s, f) :: usedFrom (s + 1) rest

/-- The used symbols with their frequencies (R193). -/
def used (freq : List Nat) : List (Nat × Nat) := usedFrom 0 freq

/-- Put a node into a pool ordered by weight first and id second (R197). -/
def insertNode (x : HNode) : List HNode → List HNode
  | [] => [x]
  | y :: rest => if x.w < y.w || (x.w == y.w && x.id ≤ y.id) then x :: y :: rest else y :: insertNode x rest

/-- The leaves, as a pool in order (R197). -/
def leaves (freq : List Nat) : List HNode :=
  (used freq).foldl (fun pool sf => insertNode { w := sf.2, id := sf.1, tree := .leaf sf.1 } pool) []

/-- The loop of R197 with at most `fuel` merges: `k` merged nodes exist already. -/
def mergePool (P : Config.Params) (n : Nat) : Nat → Nat → List HNode → List HNode
  | 0, _, pool => pool
  | _ + 1, _, [] => []
  | _ + 1, _, [x] => [x]
  | fuel + 1, k, x :: y :: rest =>
    mergePool P n fuel (k + 1)
      (insertNode { w := x.w + y.w, id := P.mergedId n k, tree := .node x.tree y.tree } rest)

/-- The depth of every leaf of a tree whose root is at depth `d`. -/
def HTree.depths : HTree → Nat → List (Nat × Nat)
  | .leaf s, d => [(s, d)]
  | .node l r, d => l.depths (d + 1) ++ r.depths (d + 1)

/-- `len[s]` for `s = 0 .. n-1` from the lengths of some symbols; 0 for the others. -/
def spreadLens (n : Nat) (pairs : List (Nat × Nat)) : List Nat :=
  (List.range n).map fun s => (pairs.lookup s).getD 0

/-- `huffman_lengths(freq, n)` (R197). -/
def huffmanLengths (P : Config.Params) (freq : List Nat) : List Nat :=
  match mergePool P freq.length freq.length 0 (leaves freq) with
  | root :: _ => spreadLens freq.length (root.tree.depths 0)
  | [] => spreadLens freq.length []

/-- An entry of a package-merge list (R200): weight, whether it is a package, its ord, the symbols it contains. -/
structure Pack where
  w        : Nat
  package  : Bool
  ord      : Nat
  contents : List Nat
deriving DecidableEq, Repr

/-- The order of entries (R200): weight, then items before packages, then ord. -/
def Pack.le (x y : Pack) : Bool :=
  x.w < y.w || (x.w == y.w && ((!x.package && y.package) || (x.package == y.package && x.ord ≤ y.ord)))

/-- Put an entry into an ordered list. -/
def insertPack (x : Pack) : List Pack → List Pack
  | [] => [x]
  | y :: rest => if x.le y then x :: y :: rest else y :: insertPack x rest

/-- Two ordered lists as one. -/
def mergePacks (xs ys : List Pack) : List Pack := xs.foldr insertPack ys

/-- The item of the used symbol of a given rank (R200). -/
def itemOf (ranked : List HNode) : List Pack :=
  ranked.zipIdx.map fun (x, rank) => { w := x.w, package := false, ord := rank, contents := [x.id] }

/-- The packages of a list: neighbours paired from the front, a last unpaired entry dropped (R200). -/
def packagesFrom : Nat → List Pack → List Pack
  | i, x :: y :: rest =>
    { w := x.w + y.w, package := true, ord := i, contents := x.contents ++ y.contents } :: packagesFrom (i + 1) rest
  | _, [] => []
  | _, [_] => []

/-- The list after `k` further levels (R200). -/
def packLevels (items : List Pack) : Nat → List Pack → List Pack
  | 0, list => list
  | k + 1, list => packLevels items k (mergePacks (packagesFrom 0 list) items)

/-- The list of the last level (R200); the items are the leaves, which are ordered by (frequency, symbol). -/
def packList (freq : List Nat) (limit : Nat) : List Pack :=
  packLevels (itemOf (leaves freq)) (limit - 1) (itemOf (leaves freq))

/-- `package_merge_lengths(freq, n, L)` (R200); none where the list is too short. -/
def packageMergeLengths (freq : List Nat) (limit : Nat) : Option (List Nat) :=
  let list := packList freq limit
  let take := 2 * (used freq).length - 2
  if list.length < take then none
  else
    let contents := ((list.take take).map Pack.contents).flatten
    some ((List.range freq.length).map fun s => contents.count s)

/-- `hc_build_freq` on a frequency array (R196, R203). -/
def buildFreq (P : Config.Params) (limit : Nat) (freq : List Nat) : Built :=
  let u := (used freq).length
  if u < 2 || 2 ^ limit < u then .failed u
  else
    let len := huffmanLengths P freq
    if maxLen len ≤ limit then .table (Table.ofLens limit len)
    else
      match packageMergeLengths freq limit with
      | some len' => .table (Table.ofLens limit len')
      | none => .failed u

/-! ### The slots (R33) -/

/-- The code lengths of `T_FLL` (R118). -/
def fixedLitLens : List Nat :=
  List.replicate 144 8 ++ List.replicate 112 9 ++ List.replicate 24 7 ++ List.replicate 8 8

/-- The code lengths of `T_FD` (R118). -/
def fixedDistLens : List Nat := List.replicate 32 5

/-- Slot 3, `T_FLL`, constant (R33, R118, R412). Its `t.limit` is not stated: 15 (DESIGN CHOICE, log entry 5). -/
def fixedLit : Table := Table.ofLens 15 fixedLitLens

/-- Slot 4, `T_FD`, constant (R33, R118, R412). -/
def fixedDist : Table := Table.ofLens 15 fixedDistLens

/-- The table in a slot (R33); there is no slot above 4. -/
def State.table (s : State) (slot : Nat) : Table :=
  match slot with
  | 0 => s.hc.slot0
  | 1 => s.hc.slot1
  | 2 => s.hc.slot2
  | 3 => fixedLit
  | 4 => fixedDist
  | _ => Table.blank

/-- Write a slot; only slots 0 to 2 can be written (R33). -/
def State.setTable (s : State) (slot : Nat) (t : Table) : State :=
  match slot with
  | 0 => { s with hc := { s.hc with slot0 := t } }
  | 1 => { s with hc := { s.hc with slot1 := t } }
  | 2 => { s with hc := { s.hc with slot2 := t } }
  | _ => s

/-- `hc_discard(slot)` (R220): `t.valid <- 0`. -/
def State.discard (s : State) (slot : Nat) : State := s.setTable slot { s.table slot with valid := false }

/-- Write cells of `STG` from an address on (R35, R61). -/
def State.stage (s : State) (a : Nat) (values : List Nat) : State :=
  { s with hc := { s.hc with stg := s.hc.stg.setList a (values.map (BitVec.ofNat 32)) } }

/-- `MemRead(STG, a, 1)`; a cell nothing has written since its contents became unspecified is a free value (U10). -/
def State.staged (s : State) (a : Nat) : Nat := (s.hc.stg.get Config.freeWord a).toNat

/-- The operand array `STG[0 .. n-1]` of a construction (R192). -/
def State.stagedArray (s : State) (n : Nat) : List Nat := (List.range n).map s.staged

/-- The effect of a construction on its slot (R194, R196, R206): `t.valid <- 0` first, the table last. -/
def State.putBuilt (s : State) (slot : Nat) (b : Built) : State :=
  match b with
  | .table t => s.setTable slot t
  | .failed _ => s.discard slot

/-- `TableConstructionFailed` of a construction (R372). -/
def badTable (info : Nat) : Raised := { kind := .tableConstructionFailed, unit := 3, info := info }

/-! ### Encode and decode (R212 to R221) -/

/-- `t.code[s]` and `t.len[s]` (R212). -/
def Table.codeOf (t : Table) (s : Nat) : Nat × Nat := (t.code.getD s 0, t.len.getD s 0)

/-- The `k`-th symbol, counted from 0 in symbol order, of those with length `l`; `s` is the symbol of the list's head. -/
def nthOfLen : List Nat → Nat → Nat → Nat → Option Nat
  | [], _, _, _ => none
  | x :: rest, l, k, s => if x = l then (if k = 0 then some s else nthOfLen rest l (k - 1) (s + 1)) else nthOfLen rest l k (s + 1)

/-- The symbol whose code of length `l` is `c` (the test of R214). -/
def Table.symbolAt (t : Table) (l c : Nat) : Option Nat :=
  let first := firstCode t.len l
  let count := lenCount t.len l
  if 0 < count && first ≤ c && c < first + count then nthOfLen t.len l (c - first) 0 else none

/-- How a look-up ends. -/
inductive Look where
  | found (symbol length : Nat)
  | short (missing : Nat)
  | noCode (bits : Nat)
deriving DecidableEq, Repr

/-- `hc_lookup` (R214, R221) for the lengths `l, l+1, …`, `k` of them: the channel and source after the fetches, and how
it ended. `bits` of `noCode` is what the last length saw, as a code value. -/
def Table.lookupFrom (P : Config.Params) (t : Table) : Nat → Nat → Bc → List Byte → (Bc × List Byte) × Look
  | 0, l, c, src => ((c, src), .noCode (revBits (l - 1) (c.peek P (l - 1)).toNat))
  | k + 1, l, c, src =>
    let r := Bc.need l c src
    if r.1.nbits < l then (r, .short (l - r.1.nbits))
    else
      match t.symbolAt l (revBits l (r.1.peek P l).toNat) with
      | some s => (r, .found s l)
      | none => Table.lookupFrom P t k (l + 1) r.1 r.2

/-- `hc_lookup(slot)` (R221): the lengths 1 to `t.maxlen`. -/
def Table.lookup (P : Config.Params) (t : Table) (c : Bc) (src : List Byte) : (Bc × List Byte) × Look :=
  t.lookupFrom P t.maxlen 1 c src

/-- `InvalidCode` of `hc_decode` (R214, R372). -/
def badCode (bits : Nat) : Raised := { kind := .invalidCode, unit := 3, info := bits }

/-- The look-up structure `t.lut` (R217), a function of the table: entry `i` is the symbol and length whose code,
bit-reversed, is the low bits of `i`. -/
def Table.lut (t : Table) : List (Option (Nat × Nat)) :=
  (List.range (2 ^ t.maxlen)).map fun i =>
    (List.range t.n).findSome? fun s =>
      let cl := t.codeOf s
      if cl.2 ≠ 0 && i % 2 ^ cl.2 == revBits cl.2 cl.1 then some (s, cl.2) else none

/-! ### Commands -/

/-- The checks of R190 for a command with a slot. -/
def State.hcRefuses (s : State) (slot : Nat) : Bool := s.sessionOpen || decide (4 < slot)

/-- The checks of R190 and R192 for a construction. -/
def State.buildRefuses (s : State) (slot n limit : Nat) : Bool :=
  s.hcRefuses slot || decide (2 < slot) || decide (n < 2) || decide (288 < n) || limit == 0

/-- The answer of a construction command. -/
def State.answerBuilt (s : State) (slot : Nat) (b : Built) : Host.Outcome State Fault Refusal :=
  match b with
  | .table t => .next ((s.putBuilt slot b).ok t.maxlen 0)
  | .failed info => .next ((s.putBuilt slot b).raiseDirect (badTable info))

/-- `HC_STAGE index, value` (R191). -/
def execHcStage (index : BitVec 9) (value : Word) (s : State) : Host.Outcome State Fault Refusal :=
  if s.sessionOpen || decide (319 < index.toNat) then .next (s.misuse 0x30)
  else .next ({ s with hc := { s.hc with stg := s.hc.stg.set index.toNat value } }.ok 0 0)

/-- `HC_BUILD_FREQ slot, n, limit` (R196). -/
def execHcBuildFreq (slot : BitVec 4) (n : BitVec 9) (limit : BitVec 4) (s : State) :
    Host.Outcome State Fault Refusal :=
  if s.buildRefuses slot.toNat n.toNat limit.toNat then .next (s.misuse 0x31)
  else s.answerBuilt slot.toNat (buildFreq params limit.toNat (s.stagedArray n.toNat))

/-- `HC_BUILD_LEN slot, n, limit` (R206). -/
def execHcBuildLen (slot : BitVec 4) (n : BitVec 9) (limit : BitVec 4) (s : State) :
    Host.Outcome State Fault Refusal :=
  if s.buildRefuses slot.toNat n.toNat limit.toNat then .next (s.misuse 0x32)
  else s.answerBuilt slot.toNat (buildLen limit.toNat (s.stagedArray n.toNat))

/-- `HC_ENCODE slot, symbol` (R212). -/
def execHcEncode (slot : BitVec 4) (symbol : BitVec 9) (s : State) : Host.Outcome State Fault Refusal :=
  if s.hcRefuses slot.toNat || !(s.table slot.toNat).valid then .next (s.misuse 0x33)
  else if (s.table slot.toNat).n ≤ symbol.toNat then .next (s.misuseWith 0x33 symbol.toNat)
  else
    let cl := (s.table slot.toNat).codeOf symbol.toNat
    .next (s.ok cl.1 cl.2)

/-- `HC_DECODE slot` (R214). -/
def execHcDecode (slot : BitVec 4) (s : State) : Host.Outcome State Fault Refusal :=
  if s.hcRefuses slot.toNat || !(s.table slot.toNat).valid || !s.bc.opened || s.bc.mode != .read then
    .next (s.misuse 0x34)
  else
    let r := (s.table slot.toNat).lookup params s.bc s.port.src
    let s1 := s.setChannel r.1
    match r.2 with
    | .found symbol length => ({ s1 with bc := s1.bc.skip length }.ok symbol length).finish
    | .short missing => (s1.raiseDirect (endOfInput missing)).finish
    | .noCode bits => (s1.raiseDirect (badCode bits)).finish

/-- `HC_DISCARD slot` (R220). -/
def execHcDiscard (slot : BitVec 4) (s : State) : Host.Outcome State Fault Refusal :=
  if s.hcRefuses slot.toNat || decide (2 < slot.toNat) then .next (s.misuse 0x35)
  else .next ((s.discard slot.toNat).ok 0 0)

end Sys2Proof.Machine
end

