-- ==== Sys2Proof/Machine/Operands.lean ====
section
/-! DEFINITION. The operand forms that are not plain numbers: the token word (R96), the length and distance buckets
of the block stream (R110, R111), the code-length order (R121) and the extra bits of the code-length alphabet (R122). -/

namespace Sys2Proof.Machine

/-- The longest match, the shortest match, the window capacity of sessions and of the MatchFinder, the lookahead, the
longest stored block (R8). -/
def maxMatch : Nat := 258

/-- `MIN_MATCH` (R8). -/
def minMatch : Nat := 3

/-- `CAP` whenever BlockCodec or MatchFinder owns the window (R8, D42). -/
def windowCap : Nat := 32768

/-- `LOOKAHEAD_MIN` (R8, R236). -/
def lookaheadMin : Nat := 261

/-- `STORED_MAX` (R8, R273). -/
def storedMax : Nat := 65535

/-- A token: "a tagged value, either a literal byte, or a match record {length, distance}" (R96). -/
inductive Token where
  | lit (b : Byte)
  | copy (length distance : Nat)
deriving DecidableEq, Repr

/-- The token word (R96): bit 31 the kind, a match's length in bits 25..17 and its distance in bits 16..0. -/
def Token.word : Token → Word
  | .lit b => b.setWidth 32
  | .copy length distance => 1#1 ++ (0#5 ++ (BitVec.ofNat 9 length ++ BitVec.ofNat 17 distance))

/-- The token of a token word (R96). -/
def Token.ofWord (w : Word) : Token :=
  if w.getLsbD 31 then .copy (w.extractLsb' 17 9).toNat (w.extractLsb' 0 17).toNat else .lit (w.extractLsb' 0 8)

/-- The number of input bytes a token covers (R244, R262). -/
def Token.covers : Token → Nat
  | .lit _ => 1
  | .copy length _ => length

/-- `LBASE`, indexed by symbol - 257 (R110). -/
def lbaseList : List Nat :=
  [3, 4, 5, 6, 7, 8, 9, 10, 11, 13, 15, 17, 19, 23, 27, 31, 35, 43, 51, 59, 67, 83, 99, 115, 131, 163, 195, 227, 258]

/-- `LEXTRA`, indexed by symbol - 257 (R110). -/
def lextraList : List Nat :=
  [0, 0, 0, 0, 0, 0, 0, 0, 1, 1, 1, 1, 2, 2, 2, 2, 3, 3, 3, 3, 4, 4, 4, 4, 5, 5, 5, 5, 0]

/-- `DBASE`, indexed by the distance symbol (R111). -/
def dbaseList : List Nat :=
  [1, 2, 3, 4, 5, 7, 9, 13, 17, 25, 33, 49, 65, 97, 129, 193, 257, 385, 513, 769, 1025, 1537, 2049, 3073, 4097, 6145,
    8193, 12289, 16385, 24577]

/-- `DEXTRA`, indexed by the distance symbol (R111). -/
def dextraList : List Nat :=
  [0, 0, 0, 0, 1, 1, 2, 2, 3, 3, 4, 4, 5, 5, 6, 6, 7, 7, 8, 8, 9, 9, 10, 10, 11, 11, 12, 12, 13, 13]

/-- `LBASE[i]` (R110). -/
def lbase (i : Nat) : Nat := lbaseList.getD i 0

/-- `LEXTRA[i]` (R110). -/
def lextra (i : Nat) : Nat := lextraList.getD i 0

/-- `DBASE[j]` (R111). -/
def dbase (j : Nat) : Nat := dbaseList.getD j 0

/-- `DEXTRA[j]` (R111). -/
def dextra (j : Nat) : Nat := dextraList.getD j 0

/-- The largest index of an entry at most `x` in a rising list, 0 if there is none. -/
def lastAtMost (x : Nat) (xs : List Nat) : Nat := xs.countP (fun b => decide (b ≤ x)) - 1

/-- `lsym(L)` (R110): 28 if L = 258, else the largest i ≤ 27 with LBASE[i] ≤ L. -/
def lsym (length : Nat) : Nat := if length = maxMatch then 28 else lastAtMost length (lbaseList.take 28)

/-- `dsym(D)` (R111): the largest j with DBASE[j] ≤ D. -/
def dsym (distance : Nat) : Nat := lastAtMost distance dbaseList

/-- `CLORD` (R121). -/
def clordList : List Nat := [16, 17, 18, 0, 8, 7, 9, 6, 10, 5, 11, 4, 12, 3, 13, 2, 14, 1, 15]

/-- `CLORD[i]` (R121). -/
def clord (i : Nat) : Nat := clordList.getD i 0

/-- The number of extra bits of a code-length symbol (R122, R269 `xb`, R314). -/
def clExtra (sym : Nat) : Nat := if sym = 16 then 2 else if sym = 17 then 3 else if sym = 18 then 7 else 0

end Sys2Proof.Machine
end

