-- ==== Sys2Proof/Machine/SlidingWindow.lean ====
section
/-! DEFINITION. SlidingWindow, unit 2 (spec/42_sliding_window.md): `sw_push`, `sw_get`, `sw_copy` (R170) and the four
commands. -/

namespace Sys2Proof.Machine

/-- The history (R30): the number of recoverable bytes. -/
def Sw.hist (w : Sw) : Nat := min w.cursor w.cap

/-- `MemRead(WIN, (sw.cursor - o) mod sw.cap, 1)` (R173, R175). -/
def Sw.back (w : Sw) (o : Nat) : Byte := w.win.get Config.freeByte ((w.cursor - o) % w.cap)

/-- `sw_push(b)` (R172). -/
def Sw.push (w : Sw) (b : Byte) : Sw :=
  { w with win := w.win.set (w.cursor % w.cap) b, cursor := w.cursor + 1 }

/-- `sw_push` of a sequence of bytes, one after another. -/
def Sw.pushAll (w : Sw) (bytes : List Byte) : Sw := bytes.foldl Sw.push w

/-- The check of `sw_get` and `sw_copy` (R173, R175): the offset or distance is within the history. -/
def Sw.reaches (w : Sw) (d : Nat) : Bool := decide (d ≠ 0) && decide (d ≤ w.hist)

/-- `sw_get(o)` (R173): the byte, or none where it raises `InvalidDistance(o)`. -/
def Sw.get (w : Sw) (o : Nat) : Option Byte := if w.reaches o then some (w.back o) else none

/-- The loop of `sw_copy(d, l)` (R175): byte by byte, the cursor advancing. -/
def Sw.copyLoop (d : Nat) : Nat → Sw → Sw
  | 0, w => w
  | l + 1, w => Sw.copyLoop d l (w.push (w.back d))

/-- The window as `SW_INIT` makes it (R171); the bytes are not cleared. -/
def Sw.init (w : Sw) (capacity : Nat) : Sw := { w with cap := capacity, cursor := 0 }

/-- `InvalidDistance` of `SW_GET` and `SW_COPY` (R372). -/
def badDistance (d : Nat) : Raised := { kind := .invalidDistance, unit := 2, info := d }

/-- The checks common to the commands but `SW_INIT` (R170). -/
def State.swRefuses (s : State) : Bool := s.sessionOpen || s.sw.cap == 0

/-- `SW_INIT capacity` (R171). -/
def execSwInit (capacity : BitVec 17) (s : State) : Host.Outcome State Fault Refusal :=
  if s.sessionOpen then .next (s.misuse 0x20)
  else if capacity.toNat < 4096 || 65536 < capacity.toNat then .next (s.misuseWith 0x20 capacity.toNat)
  else .next ({ s with sw := s.sw.init capacity.toNat }.ok 0 0)

/-- `SW_PUSH byte` (R172). -/
def execSwPush (byte : Byte) (s : State) : Host.Outcome State Fault Refusal :=
  if s.swRefuses then .next (s.misuse 0x21)
  else ({ s with sw := s.sw.push byte }.ok 0 0).finish

/-- `SW_GET offset` (R173). -/
def execSwGet (offset : Word) (s : State) : Host.Outcome State Fault Refusal :=
  if s.swRefuses then .next (s.misuse 0x22)
  else
    match s.sw.get offset.toNat with
    | none => .next (s.raiseDirect (badDistance offset.toNat))
    | some b => .next (s.ok b.toNat 0)

/-- `SW_COPY distance, length` (R175, R176): the distance is checked before the length is looked at. -/
def execSwCopy (distance length : Word) (s : State) : Host.Outcome State Fault Refusal :=
  if s.swRefuses then .next (s.misuse 0x23)
  else if s.sw.reaches distance.toNat then
    ({ s with sw := Sw.copyLoop distance.toNat length.toNat s.sw }.ok 0 0).finish
  else .next (s.raiseDirect (badDistance distance.toNat))

end Sys2Proof.Machine
end

