-- ==== Sys2Proof/Machine/Decoder.lean ====
section
/-! DEFINITION. BlockCodec, the decoding side (spec/46_block_decoder.md): one micro-step per phase and the decoder
engine (R300). -/

namespace Sys2Proof.Machine

/-- How a piece of a micro-step ends: done, held for want of a source byte (R392), or raised (R386). -/
inductive Res (α : Type) where
  | ok (a : α) (s : State)
  | hold (s : State)
  | raise (f : Raised) (s : State)
deriving DecidableEq, Repr

/-- Go on after a piece that is done. -/
def Res.andThen {α β : Type} (r : Res α) (k : α → State → Res β) : Res β :=
  match r with
  | .ok a s => k a s
  | .hold s => .hold s
  | .raise f s => .raise f s

/-- A field that the source cannot supply (R148, R344): `End` raises, `Empty` (the end not marked) holds. -/
def State.starve {α : Type} (s : State) (missing : Nat) : Res α :=
  if s.bk.last then .raise (endOfInput missing) s else .hold s

/-- `bc_need(n)` inside a session (R148). -/
def State.need (s : State) (n : Nat) : Res Unit :=
  let s1 := s.setChannel (Bc.need n s.bc s.port.src)
  if s1.bc.nbits < n then s1.starve (n - s1.bc.nbits) else .ok () s1

/-- `bc_skip(n)` (R147). -/
def State.skip (s : State) (n : Nat) : State := { s with bc := s.bc.skip n }

/-- `bc_peek(n)` (R147). -/
def State.peek (P : Config.Params) (s : State) (n : Nat) : Res Nat :=
  (s.need n).andThen fun _ s1 => .ok (s1.bc.peek P n).toNat s1

/-- `bc_read(n)` (R147). -/
def State.read (P : Config.Params) (s : State) (n : Nat) : Res Nat :=
  (s.peek P n).andThen fun v s1 => .ok v (s1.skip n)

/-- `hc_lookup(slot)` inside a session (R221): the symbol and the length of its code. -/
def State.lookup (P : Config.Params) (s : State) (slot : Nat) : Res (Nat × Nat) :=
  let r := (s.table slot).lookup P s.bc s.port.src
  let s1 := s.setChannel r.1
  match r.2 with
  | .found symbol length => .ok (symbol, length) s1
  | .short missing => s1.starve missing
  | .noCode bits => .raise (badCode bits) s1

/-- `hc_decode(slot)` inside a session (R214). -/
def State.decodeSym (P : Config.Params) (s : State) (slot : Nat) : Res Nat :=
  (s.lookup P slot).andThen fun sl s1 => .ok sl.1 (s1.skip sl.2)

/-- `out(b)` (R303). -/
def State.out (s : State) (b : Byte) : State :=
  let s1 := s.sinkPut [b]
  { s1 with sw := s1.sw.push b, bk := { s1.bk with outTotal := s1.bk.outTotal + 1 } }

/-- `bk.phase <- X` (R11). -/
def State.goto (s : State) (p : Phase) : State := { s with bk := { s.bk with phase := p } }

/-- `end_block()` (R304). -/
def State.endBlock (s : State) : State :=
  let s1 := if s.bk.kind = 2 then (s.discard 0).discard 1 else s
  s1.goto (if s1.bk.final then .done else .header)

/-- `hc_build_len(slot, n, limit)` inside a session (R206). -/
def State.buildLen (s : State) (slot n limit : Nat) : Res Unit :=
  let b := Machine.buildLen limit (s.stagedArray n)
  match b with
  | .table _ => .ok () (s.putBuilt slot b)
  | .failed info => .raise (badTable info) (s.putBuilt slot b)

/-- A fault the BlockCodec's own rules raise (R372). -/
def codecFault (kind : ErrKind) (info : Nat) : Raised := { kind := kind, unit := 5, info := info }

/-- The literal/length slot in use (R302). -/
def State.litSlot (s : State) : Nat := if s.bk.kind = 1 then 3 else 0

/-- The distance slot in use (R302). -/
def State.distSlot (s : State) : Nat := if s.bk.kind = 1 then 4 else 1

/-! ### The micro-steps -/

/-- Phase `HEADER` (R305, R306). A reserved type raises after `bk.final` and `bk.kind` are written: R306 says so of
`bk.kind`; of `bk.final` it is DEDUCED (log entry 19). -/
def stepHeader (P : Config.Params) (s : State) : Res Unit :=
  (s.read P 3).andThen fun h s1 =>
    let s2 := { s1 with bk := { s1.bk with final := h % 2 == 1, kind := BitVec.ofNat 2 (h / 2) } }
    if h / 2 = 0 then .ok () ({ s2 with bc := s2.bc.alignRead }.goto .storedLen)
    else if h / 2 = 1 then .ok () (s2.goto .symbol)
    else if h / 2 = 2 then .ok () (s2.goto .dynHdr)
    else .raise (codecFault .invalidCode 3) s2

/-- Phase `STORED_LEN` (R308). -/
def stepStoredLen (P : Config.Params) (s : State) : Res Unit :=
  (s.read P 32).andThen fun w s1 =>
    if w / 2 ^ 16 ≠ w % 2 ^ 16 ^^^ 0xFFFF then .raise (codecFault .invalidStoredLength w) s1
    else .ok () ({ s1 with bk := { s1.bk with storedRem := w % 2 ^ 16 } }.goto .storedCopy)

/-- Phase `STORED_COPY` (R309). -/
def stepStoredCopy (P : Config.Params) (s : State) : Res Unit :=
  if s.bk.storedRem = 0 then .ok () s.endBlock
  else
    (s.read P 8).andThen fun b s1 =>
      let s2 := s1.out (BitVec.ofNat 8 b)
      .ok () { s2 with bk := { s2.bk with storedRem := s2.bk.storedRem - 1 } }

/-- Phase `DYN_HDR` (R310, R311). Counts out of range raise after `bk.nlit`, `bk.ndist` and `bk.ncl` are written (DEDUCED,
log entry 19). -/
def stepDynHdr (P : Config.Params) (s : State) : Res Unit :=
  (s.read P 14).andThen fun w s1 =>
    let s2 := { s1 with bk := { s1.bk with
      nlit := w % 2 ^ 5 + 257, ndist := w / 2 ^ 5 % 2 ^ 5 + 1, ncl := w / 2 ^ 10 % 2 ^ 4 + 4 } }
    if 286 < s2.bk.nlit || 30 < s2.bk.ndist then .raise (codecFault .tableConstructionFailed w) s2
    else
      let s3 := s2.stage 0 (List.replicate 19 0)
      .ok () ({ s3 with bk := { s3.bk with idx := 0 } }.goto .dynCl)

/-- Phase `DYN_CL` (R312, R313). A failed construction raises after `bk.idx` is written (DEDUCED, log entry 19). -/
def stepDynCl (P : Config.Params) (s : State) : Res Unit :=
  (s.read P 3).andThen fun v s1 =>
    let s2 := s1.stage (clord s1.bk.idx) [v]
    let s3 := { s2 with bk := { s2.bk with idx := s2.bk.idx + 1 } }
    if s3.bk.idx = s3.bk.ncl then
      (s3.buildLen 2 19 7).andThen fun _ s4 => .ok () ({ s4 with bk := { s4.bk with idx := 0 } }.goto .dynLens)
    else .ok () s3

/-- The end of `DYN_LENS` (R317, R318). -/
def stepDynDone (s : State) : Res Unit :=
  (s.buildLen 0 s.bk.nlit 15).andThen fun _ s1 =>
    let s2 := s1.stage 0 ((List.range s1.bk.ndist).map fun i => s1.staged (s1.bk.nlit + i))
    (s2.buildLen 1 s2.bk.ndist 15).andThen fun _ s3 => .ok () ((s3.discard 2).goto .symbol)

/-- What a code-length symbol and its extra bits stand for (R314): the repeat count and the length, or none for a
repeat with no previous length. -/
def clRun (s : State) (sym e : Nat) : Option (Nat × Nat) :=
  if sym < 16 then some (1, sym)
  else if sym = 16 then (if s.bk.idx = 0 then none else some (3 + e, s.staged (s.bk.idx - 1)))
  else if sym = 17 then some (3 + e, 0)
  else some (11 + e, 0)

/-- Phase `DYN_LENS` (R314 to R317). -/
def stepDynLens (P : Config.Params) (s : State) : Res Unit :=
  if s.bk.idx = s.bk.nlit + s.bk.ndist then stepDynDone s
  else
    (s.lookup P 2).andThen fun sl s1 =>
      let x := clExtra sl.1
      (s1.peek P (sl.2 + x)).andThen fun w s2 =>
        match clRun s2 sl.1 (w / 2 ^ sl.2) with
        | none => .raise (codecFault .invalidCode sl.1) s2
        | some (r, v) =>
          if s2.bk.nlit + s2.bk.ndist < s2.bk.idx + r then .raise (codecFault .invalidCode sl.1) s2
          else
            let s3 := (s2.skip (sl.2 + x)).stage s2.bk.idx (List.replicate r v)
            .ok () { s3 with bk := { s3.bk with idx := s3.bk.idx + r } }

/-- Phase `SYMBOL` (R320, R321). -/
def stepSymbol (P : Config.Params) (s : State) : Res Unit :=
  (s.decodeSym P s.litSlot).andThen fun sym s1 =>
    if sym < 256 then .ok () (s1.out (BitVec.ofNat 8 sym))
    else if sym = 256 then .ok () s1.endBlock
    else if sym ≤ 285 then .ok () ({ s1 with bk := { s1.bk with lenSym := sym } }.goto .lenExtra)
    else .raise (codecFault .invalidCode sym) s1

/-- Phase `LEN_EXTRA` (R322). -/
def stepLenExtra (P : Config.Params) (s : State) : Res Unit :=
  (s.read P (lextra (s.bk.lenSym - 257))).andThen fun e s1 =>
    .ok () ({ s1 with bk := { s1.bk with length := lbase (s1.bk.lenSym - 257) + e } }.goto .distSym)

/-- Phase `DIST_SYM` (R323, R324). -/
def stepDistSym (P : Config.Params) (s : State) : Res Unit :=
  (s.decodeSym P s.distSlot).andThen fun j s1 =>
    if 30 ≤ j then .raise (codecFault .invalidCode j) s1
    else .ok () ({ s1 with bk := { s1.bk with distSym := j } }.goto .distExtra)

/-- Phase `DIST_EXTRA` (R325, R326). -/
def stepDistExtra (P : Config.Params) (s : State) : Res Unit :=
  (s.read P (dextra s.bk.distSym)).andThen fun e s1 =>
    let d := dbase s1.bk.distSym + e
    if min s1.sw.cursor windowCap < d then .raise (codecFault .invalidDistance d) s1
    else .ok () ({ s1 with bk := { s1.bk with dist := d, copyRem := s1.bk.length } }.goto .copy)

/-- Phase `COPY` (R327). -/
def stepCopy (s : State) : Res Unit :=
  if s.bk.copyRem = 0 then .ok () (s.goto .symbol)
  else
    match s.sw.get s.bk.dist with
    | none => .raise (badDistance s.bk.dist) s
    | some b =>
      let s1 := s.out b
      .ok () { s1 with bk := { s1.bk with copyRem := s1.bk.copyRem - 1 } }

/-- The micro-step of a phase (R300); none where the phase has no decoder micro-step. -/
def microStep (P : Config.Params) (s : State) : Option (Res Unit) :=
  match s.bk.phase with
  | .header => some (stepHeader P s)
  | .storedLen => some (stepStoredLen P s)
  | .storedCopy => some (stepStoredCopy P s)
  | .dynHdr => some (stepDynHdr P s)
  | .dynCl => some (stepDynCl P s)
  | .dynLens => some (stepDynLens P s)
  | .symbol => some (stepSymbol P s)
  | .lenExtra => some (stepLenExtra P s)
  | .distSym => some (stepDistSym P s)
  | .distExtra => some (stepDistExtra P s)
  | .copy => some (stepCopy s)
  | .idle => none
  | .done => none
  | .fault => none
  | .encRun => none
  | .encFinish => none

/-! ### The engine -/

/-- The statuses of a feed (R95). -/
inductive FeedStatus where
  | needMoreInput
  | haveOutput
  | finished
deriving DecidableEq, Repr

/-- The number of a feed status (R95). -/
def FeedStatus.code : FeedStatus → BitVec 8
  | .needMoreInput => 1
  | .haveOutput => 2
  | .finished => 3

/-- How an engine run ends: with a status, with a fault, or (no run) stopped by name. -/
inductive EngineEnd where
  | status (st : FeedStatus) (s : State)
  | raised (f : Raised) (s : State)
  | stopped (why : Fault)
deriving DecidableEq, Repr

/-- The three phases whose micro-step can produce a byte (R300). -/
def Phase.producing : Phase → Bool
  | .storedCopy => true
  | .symbol => true
  | .copy => true
  | .idle => false
  | .header => false
  | .storedLen => false
  | .dynHdr => false
  | .dynCl => false
  | .dynLens => false
  | .lenExtra => false
  | .distSym => false
  | .distExtra => false
  | .done => false
  | .fault => false
  | .encRun => false
  | .encFinish => false

/-- Whether `out_cap` bytes have been produced since `bk.out_total` was `out0` (R300); no limit is never reached. -/
def State.capReached (s : State) (outCap : Option Nat) (out0 : Nat) : Bool :=
  match outCap with
  | some c => s.bk.outTotal - out0 == c
  | none => false

/-- The loop of `dec_engine(out_cap)` (R300) with at most `fuel` micro-steps; `out0` is `bk.out_total` on entry, so
`produced` is the difference. -/
def decLoop (P : Config.Params) (outCap : Option Nat) (out0 : Nat) : Nat → State → EngineEnd
  | 0, _ => .stopped .engineBudget
  | fuel + 1, s =>
    if s.bk.phase = .done then .status .finished s
    else if s.bk.phase.producing && s.capReached outCap out0 then .status .haveOutput s
    else
      match microStep P s with
      | none => .stopped .noMicroStep
      | some (.ok _ s') => decLoop P outCap out0 fuel s'
      | some (.hold s') => .status .needMoreInput s'
      | some (.raise f s') => .raised f s'

/-- The stream bits that the session can still read: pending in the accumulator or at the source. -/
def State.bitsLeft (s : State) : Nat := s.bc.nbits + 8 * s.port.src.length

/-- The micro-steps a phase can take before it reads a further bit, with some to spare. -/
def State.phaseWeight (s : State) : Nat :=
  match s.bk.phase with
  | .storedCopy => 2
  | .dynLens => 3
  | .symbol => 1
  | .lenExtra => 264
  | .distSym => s.bk.length + 5
  | .distExtra => s.bk.length + 4
  | .copy => s.bk.copyRem + 2
  | .idle => 0
  | .header => 1
  | .storedLen => 0
  | .dynHdr => 0
  | .dynCl => 0
  | .done => 0
  | .fault => 0
  | .encRun => 0
  | .encFinish => 0

/-- A bound on the micro-steps of an engine run (R431: "each micro-step either consumes bits, produces a byte, advances
bk.phase, or ends the run"). -/
def State.engineFuel (s : State) : Nat := 300 * s.bitsLeft + s.phaseWeight + 1

/-- `dec_engine(out_cap)` (R300). -/
def State.decEngine (P : Config.Params) (s : State) (outCap : Option Nat) : EngineEnd :=
  decLoop P outCap s.bk.outTotal s.engineFuel s

end Sys2Proof.Machine
end

