-- ==== Sys2Proof/Machine/MatchFinder.lean ====
section
/-! DEFINITION. MatchFinder, unit 4 (spec/44_match_finder.md): the hash chains, one decision of the tokenizer, the run,
and the three commands. -/

namespace Sys2Proof.Machine

/-! ### Hash chains -/

/-- `mf.known` (R36): the number of input bytes received. -/
def Mf.known (m : Mf) : Nat := m.input.length

/-- `mf.ntok` (R36): the number of tokens in `TOK`. -/
def Mf.ntok (m : Mf) : Nat := m.tok.length

/-- `HASH(IN[q], IN[q+1], IN[q+2])` (R234), none where no 3-byte string starts at `q`. -/
def Mf.hashAt (P : Config.Params) (m : Mf) (q : Nat) : Option Nat :=
  match m.input.drop q with
  | b0 :: b1 :: b2 :: _ => some (P.hash b0 b1 b2)
  | _ => none

/-- `MFH[h]` (R36). -/
def Mf.head (m : Mf) (h : Nat) : Option Nat := m.mfh.get Config.freePos h

/-- `MFP[q mod CAP]` (R36). -/
def Mf.link (m : Mf) (q : Nat) : Option Nat := m.mfp.get Config.freePos (q % windowCap)

/-- The number of equal bytes at the front of two sequences, at most `limit`. -/
def commonLen : Nat → List Byte → List Byte → Nat
  | 0, _, _ => 0
  | _ + 1, [], _ => 0
  | _ + 1, _ :: _, [] => 0
  | limit + 1, x :: xs, y :: ys => if x = y then commonLen limit xs ys + 1 else 0

/-- The loop of `search(p)` (R238) with `links` chain links left: the candidate, the best length and its distance.
The test `c < p` never fails for a chain the rules have built (R37); it keeps the walk inside `IN` where the chain
cells are unspecified (U10). -/
def Mf.walk (m : Mf) (p limit : Nat) : Nat → Option Nat → Nat → Nat → Nat × Nat
  | 0, _, best, dist => (best, dist)
  | _ + 1, none, best, dist => (best, dist)
  | links + 1, some c, best, dist =>
    if c < p && p - c ≤ windowCap then
      let l := commonLen limit (m.input.drop c) (m.input.drop p)
      let best' := if best < l then l else best
      let dist' := if best < l then p - c else dist
      if best' = limit then (best', dist') else m.walk p limit links (m.link c) best' dist'
    else (best, dist)

/-- `search(p)` (R238): the best (length, distance), (0, 0) if no match reaches 3 bytes. -/
def Mf.search (P : Config.Params) (m : Mf) (p : Nat) : Nat × Nat :=
  match m.hashAt P p with
  | none => (0, 0)
  | some h =>
    let r := m.walk p (min maxMatch (m.known - p)) m.maxChain (m.head h) 2 0
    if minMatch ≤ r.1 then r else (0, 0)

/-- `insert(q)` (R239). -/
def Mf.insert (P : Config.Params) (m : Mf) (q : Nat) : Mf :=
  match m.hashAt P q with
  | none => m
  | some h => { m with mfp := m.mfp.set (q % windowCap) (m.head h), mfh := m.mfh.set h (some q) }

/-- `insert(q)` for `k` positions from `q` on, in increasing order. -/
def Mf.insertRange (P : Config.Params) (m : Mf) (q : Nat) : Nat → Mf
  | 0 => m
  | k + 1 => (m.insert P q).insertRange P (q + 1) k

/-- `emit(t)` (R237): append a token word to `TOK`. -/
def Mf.emit (m : Mf) (t : Token) : Mf := { m with tok := m.tok ++ [t.word] }

/-- The literal token of the input byte at a position (R237 `lit(IN[p])`). -/
def Mf.literalAt (m : Mf) (p : Nat) : Token := .lit (m.input.getD p 0)

/-! ### One decision and the run -/

/-- What one decision of R237 comes to: the tokens emitted at a position, and how many bytes they cover. -/
inductive Decision where
  /-- No 3-byte string starts here, or level 0: a literal, nothing inserted. -/
  | plain
  /-- No match of at least 3 bytes: a literal, the position inserted. -/
  | fallback
  /-- A match at the position. -/
  | here (length distance : Nat)
  /-- A strictly longer match at the next position: a literal, then that match (R242). -/
  | lazily (length distance : Nat)
deriving DecidableEq, Repr

/-- The choice made at a position `p` (R237, R242). The second search sees the chains after `insert(p)`. -/
def Mf.choose (P : Config.Params) (m : Mf) (p : Nat) : Decision :=
  if m.level = 0 || m.known - p < minMatch then .plain
  else
    let r1 := m.search P p
    if r1.1 < minMatch then .fallback
    else if r1.1 < m.lazyThr && minMatch ≤ m.known - (p + 1) then
      let r2 := (m.insert P p).search P (p + 1)
      if r1.1 < r2.1 then .lazily r2.1 r2.2 else .here r1.1 r1.2
    else .here r1.1 r1.2

/-- `mf_step()` without `advance` (R237): tokens emitted and positions inserted, and the number of bytes covered. -/
def Mf.act (P : Config.Params) (m : Mf) (p : Nat) : Decision → Mf × Nat
  | .plain => (m.emit (m.literalAt p), 1)
  | .fallback => ((m.insert P p).emit (m.literalAt p), 1)
  | .here l d => (((m.insert P p).emit (.copy l d)).insertRange P (p + 1) (l - 1), l)
  | .lazily l d =>
    ((((m.insert P p).emit (m.literalAt p)).insert P (p + 1)).emit (.copy l d) |>.insertRange P (p + 2) (l - 1), 1 + l)

/-- `advance(k)` (R246): push `IN[p .. p+k)` into the window, add `k` to `mf.pos`. -/
def advance (m : Mf) (w : Sw) (k : Nat) : Mf × Sw :=
  ({ m with pos := m.pos + k }, w.pushAll ((m.input.drop m.pos).take k))

/-- `mf_step()` (R237) on the MatchFinder and the window. -/
def mfStep (P : Config.Params) (m : Mf) (w : Sw) : Mf × Sw :=
  let r := m.act P m.pos (m.choose P m.pos)
  advance r.1 w r.2

/-- Whether a step is allowed (R236). -/
def Mf.mayStep (m : Mf) : Bool :=
  decide (m.pos < m.known) && (m.last || m.level == 0 || decide (lookaheadMin ≤ m.known - m.pos))

/-- `mf_run()` (R236) with at most `fuel` steps. -/
def mfRunSteps (P : Config.Params) : Nat → Mf → Sw → Mf × Sw
  | 0, m, w => (m, w)
  | fuel + 1, m, w => if m.mayStep then (let r := mfStep P m w; mfRunSteps P fuel r.1 r.2) else (m, w)

/-- `mf_run()` (R236): every step covers at least one byte, so the bytes not yet covered bound the steps. -/
def mfRun (P : Config.Params) (m : Mf) (w : Sw) : Mf × Sw := mfRunSteps P (m.known - m.pos) m w

/-- `mf_init(level)` (R231) on the MatchFinder. `MFP` is not cleared. -/
def Mf.init (P : Config.Params) (m : Mf) (level : Nat) : Mf :=
  { m with
    level := level, opened := true, last := false, maxChain := (P.effort level).maxChain
    lazyThr := (P.effort level).lazyThr, pos := 0, mfh := { fill := .all none, cells := [] }, input := [], tok := [] }

/-- `mf_init(level)` (R231): the MatchFinder and the window together. -/
def State.mfInit (P : Config.Params) (s : State) (level : Nat) : State :=
  { s with mf := s.mf.init P level, sw := s.sw.init windowCap }

/-- `mf_absorb(last)` (R235): every byte present at the source joins `IN`; the number of them is the length of the
source before. -/
def State.mfAbsorb (s : State) (last : Bool) : State :=
  { s.setSrc [] with mf := { s.mf with input := s.mf.input ++ s.port.src, last := s.mf.last || last } }

/-- `mf_run()` (R236) on the machine. -/
def State.mfRun (P : Config.Params) (s : State) : State :=
  let r := Machine.mfRun P s.mf s.sw
  { s with mf := r.1, sw := r.2 }

/-- `mf_take(m)` (R251): the first `m` tokens are removed. -/
def Mf.take (m : Mf) (k : Nat) : Mf := { m with tok := m.tok.drop k }

/-! ### Commands -/

/-- The checks common to the commands but `MF_INIT` (R230). -/
def State.mfRefuses (s : State) : Bool := s.sessionOpen || !s.mf.opened

/-- `MF_INIT level` (R231). -/
def execMfInit (level : BitVec 4) (s : State) : Host.Outcome State Fault Refusal :=
  if s.sessionOpen then .next (s.misuse 0x40)
  else if 9 < level.toNat then .next (s.misuseWith 0x40 level.toNat)
  else .next ((s.mfInit params level.toNat).ok 0 0)

/-- `MF_RUN last` (R235). The spec gives `r1` no width: of a count of 2^32 or more the low 32 bits are answered (DESIGN
CHOICE, log entry 18). -/
def execMfRun (last : Bool) (s : State) : Host.Outcome State Fault Refusal :=
  if s.mfRefuses || s.mf.last then .next (s.misuse 0x41)
  else
    let s1 := (s.mfAbsorb last).mfRun params
    (s1.ok (s1.mf.ntok - s.mf.ntok) s.port.src.length).finish

/-- `MF_TOKEN index` (R250). -/
def execMfToken (index : Word) (s : State) : Host.Outcome State Fault Refusal :=
  if s.mfRefuses then .next (s.misuse 0x42)
  else
    match s.mf.tok[index.toNat]? with
    | none => .next (s.misuseWith 0x42 index.toNat)
    | some w => .next (s.ok w.toNat 0)

end Sys2Proof.Machine
end

