-- ==== Sys2Proof/Machine/Encoder.lean ====
section
/-! DEFINITION. BlockCodec, the encoding side (spec/45_block_encoder.md): costs, the plan of a dynamic block, the choice
of a block's kind, the exact bits of each kind, and the encoder engine (R260). The bits of a block are first written
down as a list of channel operations (`WOp`) and then run on the BitChannel. -/

namespace Sys2Proof.Machine

/-- One operation of the encoder on its channel: `write_bits(value, count)` or `align_to_byte()` (R143). -/
inductive WOp where
  | bits (value : Word) (count : Nat)
  | align
deriving DecidableEq, Repr

/-- `write_bits(v, c)` of a number (R103). -/
def putBits (v c : Nat) : WOp := .bits (BitVec.ofNat 32 v) c

/-- Run channel operations in order: the channel and the bytes put (R145, R156). -/
def runOps (P : Config.Params) : Bc → List WOp → Bc × List Byte
  | c, [] => (c, [])
  | c, .bits v n :: rest =>
    let r := c.write P v n
    let r' := runOps P r.1 rest
    (r'.1, r.2 ++ r'.2)
  | c, .align :: rest =>
    let r := c.alignWrite P
    let r' := runOps P r.1 rest
    (r'.1, r.2 ++ r'.2)

/-! ### Tokens (R263, R276) -/

/-- `put_code(slot, s)` (R276, R104). -/
def putCode (t : Table) (s : Nat) : WOp := putBits (revBits (t.codeOf s).2 (t.codeOf s).1) (t.codeOf s).2

/-- One token of `put_tokens` (R276, R113). -/
def putToken (ll d : Table) : Token → List WOp
  | .lit b => [putCode ll b.toNat]
  | .copy length distance =>
    [putCode ll (257 + lsym length), putBits (length - lbase (lsym length)) (lextra (lsym length)),
      putCode d (dsym distance), putBits (distance - dbase (dsym distance)) (dextra (dsym distance))]

/-- `put_tokens(T, sl, sd)` (R276), the end-of-block code included. -/
def putTokens (ll d : Table) (tokens : List Token) : List WOp :=
  (tokens.map (putToken ll d)).flatten ++ [putCode ll 256]

/-- The bits of a token under two tables' lengths (R263). -/
def tokenBits (ll d : Table) : Token → Nat
  | .lit b => (ll.codeOf b.toNat).2
  | .copy length distance =>
    (ll.codeOf (257 + lsym length)).2 + lextra (lsym length) + (d.codeOf (dsym distance)).2 + dextra (dsym distance)

/-- `tokbits(T, ll, d)` (R263). -/
def tokbits (ll d : Table) (tokens : List Token) : Nat := (tokens.map (tokenBits ll d)).sum

/-! ### The plan of a dynamic block (R265 to R270) -/

/-- Add 1 to an entry. -/
def bump (f : List Nat) (i : Nat) : List Nat := f.set i (f.getD i 0 + 1)

/-- `fl` of R265 before `guard2`: the literal/length frequencies, the end-of-block symbol counted once. -/
def litFreq (tokens : List Token) : List Nat :=
  bump (tokens.foldl (fun f t => match t with
    | .lit b => bump f b.toNat
    | .copy length _ => bump f (257 + lsym length)) (List.replicate 286 0)) 256

/-- `fd` of R265 before `guard2`: the distance frequencies. -/
def distFreq (tokens : List Token) : List Nat :=
  tokens.foldl (fun f t => match t with
    | .lit _ => f
    | .copy _ distance => bump f (dsym distance)) (List.replicate 30 0)

/-- Set the lowest-indexed zero entry to 1. -/
def fillZero : List Nat → List Nat
  | [] => []
  | f :: rest => if f = 0 then 1 :: rest else f :: fillZero rest

/-- `guard2(f)` (R270): while fewer than two entries are nonzero, set the lowest-indexed zero entry to 1. -/
def guard2 (f : List Nat) : List Nat :=
  match (used f).length with
  | 0 => fillZero (fillZero f)
  | 1 => fillZero f
  | _ + 2 => f

/-- The number of entries equal to `v` at the front of a list. -/
def frontRun (v : Nat) : List Nat → Nat
  | [] => 0
  | x :: rest => if x = v then frontRun v rest + 1 else 0

/-- The repeats of a nonzero length (R267): `while rem ≥ 3: k <- min(rem, 6); output (16, k); rem <- rem - k`. -/
def repeats : Nat → Nat → List (Nat × Nat)
  | 0, _ => []
  | fuel + 1, rem => if 3 ≤ rem then (16, min rem 6) :: repeats fuel (rem - min rem 6) else []

/-- `rle(S)` (R267) with at most `fuel` iterations of its outer loop. -/
def rleFrom : Nat → List Nat → List (Nat × Nat)
  | 0, _ => []
  | _ + 1, [] => []
  | fuel + 1, v :: rest =>
    let run := frontRun v rest + 1
    if v = 0 then
      if 11 ≤ run then (18, min run 138) :: rleFrom fuel ((v :: rest).drop (min run 138))
      else if 3 ≤ run then (17, run) :: rleFrom fuel ((v :: rest).drop run)
      else (0, 0) :: rleFrom fuel rest
    else
      let reps := repeats run (run - 1)
      (v, 0) :: reps ++ rleFrom fuel (rest.drop (reps.map Prod.snd).sum)

/-- `rle(S)` (R267): each iteration takes at least one entry. -/
def rle (lens : List Nat) : List (Nat × Nat) := rleFrom lens.length lens

/-- The frequencies of the code-length symbols of an `rle` output (R265 `fc`, before `guard2`). -/
def clFreq (r : List (Nat × Nat)) : List Nat := r.foldl (fun f p => bump f p.1) (List.replicate 19 0)

/-- `1 +` the largest index with a nonzero entry, 0 if there is none. -/
def lastUsed (xs : List Nat) : Nat := xs.length - frontRun 0 xs.reverse

/-- What `dyn_plan(T)` comes to (R265). -/
structure DynPlan where
  ll    : Table
  d     : Table
  cl    : Table
  nlit  : Nat
  ndist : Nat
  ncl   : Nat
  runs  : List (Nat × Nat)
deriving DecidableEq, Repr

/-- `CLORD`-ordered lengths of a code-length table (R265, R275). -/
def clordLens (cl : Table) : List Nat := clordList.map fun i => (cl.codeOf i).2

/-- `dyn_plan(T)` from the two block tables on (R265). -/
def dynPlanOf (P : Config.Params) (ll d : Table) : Except Raised DynPlan :=
  let nlit := max 257 (lastUsed ll.len)
  let ndist := max 1 (lastUsed d.len)
  let runs := rle (ll.len.take nlit ++ d.len.take ndist)
  match buildFreq P 7 (guard2 (clFreq runs)) with
  | .failed info => .error (badTable info)
  | .table cl =>
    .ok { ll := ll, d := d, cl := cl, nlit := nlit, ndist := ndist, ncl := max 4 (lastUsed (clordLens cl)), runs := runs }

/-- `dyn_plan(T)` (R265); an error is the `TableConstructionFailed` of a construction. -/
def dynPlan (P : Config.Params) (tokens : List Token) : Except Raised DynPlan :=
  match buildFreq P 15 (guard2 (litFreq tokens)) with
  | .failed info => .error (badTable info)
  | .table ll =>
    match buildFreq P 15 (guard2 (distFreq tokens)) with
    | .failed info => .error (badTable info)
    | .table d => dynPlanOf P ll d

/-! ### Costs and the choice (R264, R269, R271, R272) -/

/-- `fixed_cost` (R264). -/
def fixedCost (tokens : List Token) : Nat := 3 + tokbits fixedLit fixedDist tokens + 7

/-- `dyn_cost` (R269). -/
def dynCost (plan : DynPlan) (tokens : List Token) : Nat :=
  3 + 14 + 3 * plan.ncl + (plan.runs.map fun p => (plan.cl.codeOf p.1).2 + clExtra p.1).sum +
    tokbits plan.ll plan.d tokens + (plan.ll.codeOf 256).2

/-- The number of stored blocks for `nb` raw bytes (R271): `max(1, ceil(nb / 65535))`. -/
def storedPieces (nb : Nat) : Nat := max 1 ((nb + (storedMax - 1)) / storedMax)

/-- `stored_cost(t0, nb)` (R271). -/
def storedCost (t0 nb : Nat) : Nat :=
  3 + (8 - (t0 + 3) % 8) % 8 + 32 * storedPieces nb + 8 * nb + 8 * (storedPieces nb - 1)

/-! ### The bits of each kind (R273 to R275) -/

/-- One stored block of the stream (R273, R108). -/
def storedBlock (final : Bool) (piece : List Byte) : List WOp :=
  [putBits final.toNat 1, putBits 0 2, .align, putBits piece.length 16, putBits (piece.length ^^^ 0xFFFF) 16] ++
    piece.map fun b => putBits b.toNat 8

/-- `emit_stored(RAW, final)` (R273) cut into `k` pieces. -/
def storedBlocks (final : Bool) : Nat → List Byte → List WOp
  | 0, _ => []
  | 1, raw => storedBlock final raw
  | k + 2, raw => storedBlock false (raw.take storedMax) ++ storedBlocks final (k + 1) (raw.drop storedMax)

/-- `emit_stored(RAW, final)` (R273). -/
def emitStored (raw : List Byte) (final : Bool) : List WOp := storedBlocks final (storedPieces raw.length) raw

/-- `emit_fixed(T, final)` (R274). -/
def emitFixed (tokens : List Token) (final : Bool) : List WOp :=
  [putBits final.toNat 1, putBits 1 2] ++ putTokens fixedLit fixedDist tokens

/-- One pair of the run-length coded lengths (R275, R122). -/
def putRun (cl : Table) (p : Nat × Nat) : List WOp :=
  if p.1 = 16 then [putCode cl 16, putBits (p.2 - 3) 2]
  else if p.1 = 17 then [putCode cl 17, putBits (p.2 - 3) 3]
  else if p.1 = 18 then [putCode cl 18, putBits (p.2 - 11) 7]
  else [putCode cl p.1]

/-- `emit_dynamic(T, dyn, final)` (R275). -/
def emitDynamic (tokens : List Token) (plan : DynPlan) (final : Bool) : List WOp :=
  [putBits final.toNat 1, putBits 2 2, putBits (plan.nlit - 257) 5, putBits (plan.ndist - 1) 5,
      putBits (plan.ncl - 4) 4] ++
    ((clordLens plan.cl).take plan.ncl).map (fun l => putBits l 3) ++
    (plan.runs.map (putRun plan.cl)).flatten ++ putTokens plan.ll plan.d tokens

/-! ### One block and the engine (R260 to R262) -/

/-- The number of a block kind (R107). -/
def kindCode : Config.BlockKind → BitVec 2
  | .stored => 0
  | .fixedHuffman => 1
  | .dynamicHuffman => 2

/-- The choice of a block's kind (R262, R272). -/
def chooseKind (P : Config.Params) (level : Nat) (plan : DynPlan) (tokens : List Token) (t0 nb : Nat) :
    Config.BlockKind :=
  P.kindChoice level (fixedCost tokens) (dynCost plan tokens) (storedCost t0 nb)

/-- The operations of a block of a kind (R262). -/
def blockOps (kind : Config.BlockKind) (tokens : List Token) (plan : DynPlan) (raw : List Byte) (final : Bool) :
    List WOp :=
  match kind with
  | .stored => emitStored raw final
  | .fixedHuffman => emitFixed tokens final
  | .dynamicHuffman => emitDynamic tokens plan final

/-- Run channel operations with `SinkPut` appending to `outq` (R63, R260). -/
def State.runEnc (P : Config.Params) (s : State) (ops : List WOp) : State :=
  let r := runOps P s.bc ops
  { s with bc := r.1, outq := s.outq ++ r.2 }

/-- What `dyn_plan` writes (R265): the three frequency arrays in `STG`, the three tables in slots 0 to 2, which the end
of the block discards (R262). -/
def State.putPlan (s : State) (tokens : List Token) (plan : DynPlan) : State :=
  let s1 := ((s.stage 0 (guard2 (litFreq tokens))).stage 0 (guard2 (distFreq tokens))).stage 0
    (guard2 (clFreq plan.runs))
  (((s1.setTable 0 plan.ll).setTable 1 plan.d).setTable 2 plan.cl)

/-- `emit_block(m, final)` (R262). -/
def State.emitBlock (P : Config.Params) (s : State) (m : Nat) (final : Bool) : Except (Raised × State) State :=
  let tokens := (s.mf.tok.take m).map Token.ofWord
  let nb := (tokens.map Token.covers).sum
  let raw := (s.mf.input.drop s.bk.blkStart).take nb
  let s1 := { s with bk := { s.bk with final := final } }
  match dynPlan P tokens with
  | .error f => .error (f, s1)
  | .ok plan =>
    let kind := chooseKind P s.bk.level plan tokens s.bc.total nb
    let s2 := s1.putPlan tokens plan
    let s3 := { s2 with bk := { s2.bk with kind := kindCode kind } }.runEnc P (blockOps kind tokens plan raw final)
    let s4 := ((s3.discard 0).discard 1).discard 2
    .ok { s4 with mf := s4.mf.take m, bk := { s4.bk with blkStart := s4.bk.blkStart + nb } }

/-- The loop of R260: non-final blocks while more than `BLOCK_MAX_TOKENS` tokens are there. -/
def State.emitFull (P : Config.Params) : Nat → State → Except (Raised × State) State
  | 0, s => .ok s
  | fuel + 1, s =>
    if P.blockMaxTokens < s.mf.ntok then
      match s.emitBlock P P.blockMaxTokens false with
      | .error e => .error e
      | .ok s' => State.emitFull P fuel s'
    else .ok s

/-- `bc_flush()` in an encode session (R160, R260, R347): the pad bits go to `outq`; the `SinkFlush()` is not passed on
here. -/
def State.flushEnc (P : Config.Params) (s : State) : State :=
  let s1 := s.runEnc P [.align]
  { s1 with bc := { s1.bc with flushed := true } }

/-- The final block and the flush (R260), when all input is tokenized and the end is marked. -/
def State.emitFinal (P : Config.Params) (s : State) : Except (Raised × State) State :=
  if s.bk.last && s.mf.pos == s.mf.known then
    match s.emitBlock P s.mf.ntok true with
    | .error e => .error e
    | .ok s' => let s1 := s'.flushEnc P; .ok { s1 with bk := { s1.bk with phase := .encFinish } }
  else .ok s

/-- `enc_engine()` (R260). An error is a fault raised inside it (R386). -/
def State.encEngine (P : Config.Params) (s : State) : Except (Raised × State) State :=
  let s1 := s.mfRun P
  match State.emitFull P s1.mf.ntok s1 with
  | .error e => .error e
  | .ok s2 =>
    match s2.emitFinal P with
    | .error e => .error e
    | .ok s3 => .ok { s3 with bk := { s3.bk with ntok := min s3.mf.ntok P.blockMaxTokens } }

/-- `drain(k)` (R347): up to `k` bytes from the head of `outq` to the sink; `none` for no limit. -/
def State.drain (s : State) (k : Option Nat) : State :=
  let n := match k with
    | some k => min k s.outq.length
    | none => s.outq.length
  let s1 := s.sinkPut (s.outq.take n)
  { s1 with outq := s.outq.drop n, bk := { s1.bk with outTotal := s1.bk.outTotal + n } }

end Sys2Proof.Machine
end

