-- ==== Sys2Proof/Machine/Flags.lean ====
section
/-! DEFINITION. The status words of `REG_READ` (R352): which register number reads which fields, at which bits
(spec/10_state.md R22, R23, R27, R28, R29, R33, R36). All bits of a word not listed are zero (R27). -/

namespace Sys2Proof.Machine

/-- A field of a status word: the low `width` bits of `x` at bit `lo`. -/
def fieldAt (lo width x : Nat) : Nat := x % 2 ^ width * 2 ^ lo

/-- A one-bit field of a status word. -/
def flagAt (lo : Nat) (b : Bool) : Nat := fieldAt lo 1 b.toNat

/-- The low word of a 64-bit register. -/
def loWord (x : Nat) : Nat := x % 2 ^ 32

/-- The high word of a 64-bit register. -/
def hiWord (x : Nat) : Nat := x / 2 ^ 32 % 2 ^ 32

/-- `0x00 CORE_ERR` (R22). -/
def State.coreErr (s : State) : Nat := fieldAt 0 8 s.err.kind.toNat + fieldAt 8 8 s.err.unit.toNat

/-- `0x10 BC_CFG` (R23). -/
def State.bcCfg (s : State) : Nat :=
  flagAt 0 s.bc.mode.bit + flagAt 1 s.bc.order.bit + flagAt 2 s.bc.opened + flagAt 3 s.bc.flushed

/-- `0x30 HC_VALID` (R33): `t.valid` of slot `k` in bit `k`. -/
def State.hcValid (s : State) : Nat :=
  flagAt 0 (s.table 0).valid + flagAt 1 (s.table 1).valid + flagAt 2 (s.table 2).valid + flagAt 3 (s.table 3).valid +
    flagAt 4 (s.table 4).valid

/-- `0x38 + k` (R33): `t.n`, `t.limit`, `t.maxlen` of slot `k`. -/
def State.hcInfo (s : State) (slot : Nat) : Nat :=
  fieldAt 0 9 (s.table slot).n + fieldAt 9 4 (s.table slot).limit + fieldAt 13 4 (s.table slot).maxlen

/-- `0x40 MF_CFG` (R36). -/
def State.mfCfg (s : State) : Nat := fieldAt 0 4 s.mf.level + flagAt 4 s.mf.opened + flagAt 5 s.mf.last

/-- `0x43 MF_EFFORT` (R36). -/
def State.mfEffort (s : State) : Nat := fieldAt 0 13 s.mf.maxChain + fieldAt 16 9 s.mf.lazyThr

/-- `0x50 BK_STATE` (R27). -/
def State.bkState (s : State) : Nat :=
  fieldAt 0 5 s.bk.phase.code + flagAt 5 s.bk.final + fieldAt 6 2 s.bk.kind.toNat + flagAt 8 s.bk.dir.bit +
    flagAt 9 s.bk.last + fieldAt 12 4 s.bk.level

/-- `0x52 BK_COPY` (R27). -/
def State.bkCopy (s : State) : Nat := fieldAt 0 9 s.bk.copyRem + fieldAt 9 17 s.bk.dist

/-- `0x53 BK_MATCH` (R27). -/
def State.bkMatch (s : State) : Nat :=
  fieldAt 0 9 s.bk.length + fieldAt 9 9 s.bk.lenSym + fieldAt 18 5 s.bk.distSym

/-- `0x54 BK_COUNTS` (R27). -/
def State.bkCounts (s : State) : Nat :=
  fieldAt 0 9 s.bk.nlit + fieldAt 9 6 s.bk.ndist + fieldAt 15 5 s.bk.ncl

/-- `0x5D BK_OUTQ` (R28). -/
def State.bkOutq (s : State) : Nat := min s.outq.length (2 ^ 32 - 1)

/-- The word a register number reads (R352); none for a number that is not listed. -/
def State.readReg (s : State) (number : Nat) : Option Nat :=
  match number with
  | 0x00 => some s.coreErr
  | 0x01 => some s.err.info.toNat
  | 0x10 => some s.bcCfg
  | 0x11 => some (loWord s.bc.acc.toNat)
  | 0x12 => some (hiWord s.bc.acc.toNat)
  | 0x13 => some (fieldAt 0 6 s.bc.nbits)
  | 0x14 => some (loWord s.bc.total)
  | 0x15 => some (hiWord s.bc.total)
  | 0x16 => some (loWord s.bc.nbytes)
  | 0x17 => some (hiWord s.bc.nbytes)
  | 0x20 => some (fieldAt 0 17 s.sw.cap)
  | 0x21 => some (loWord s.sw.cursor)
  | 0x22 => some (hiWord s.sw.cursor)
  | 0x30 => some s.hcValid
  | 0x38 => some (s.hcInfo 0)
  | 0x39 => some (s.hcInfo 1)
  | 0x3A => some (s.hcInfo 2)
  | 0x3B => some (s.hcInfo 3)
  | 0x3C => some (s.hcInfo 4)
  | 0x40 => some s.mfCfg
  | 0x41 => some (loWord s.mf.pos)
  | 0x42 => some (hiWord s.mf.pos)
  | 0x43 => some s.mfEffort
  | 0x44 => some (loWord s.mf.known)
  | 0x45 => some (hiWord s.mf.known)
  | 0x46 => some (loWord s.mf.ntok)
  | 0x50 => some s.bkState
  | 0x51 => some (fieldAt 0 16 s.bk.storedRem)
  | 0x52 => some s.bkCopy
  | 0x53 => some s.bkMatch
  | 0x54 => some s.bkCounts
  | 0x55 => some (fieldAt 0 9 s.bk.idx)
  | 0x56 => some (loWord s.bk.outTotal)
  | 0x57 => some (hiWord s.bk.outTotal)
  | 0x58 => some (loWord s.bk.inTotal)
  | 0x59 => some (hiWord s.bk.inTotal)
  | 0x5A => some (loWord s.bk.blkStart)
  | 0x5B => some (hiWord s.bk.blkStart)
  | 0x5C => some (fieldAt 0 15 s.bk.ntok)
  | 0x5D => some s.bkOutq
  | _ => none

end Sys2Proof.Machine
end

