-- ==== Sys2Proof/Machine/TopLevel.lean ====
section
/-! DEFINITION. BlockCodec's session commands and the two commands of unit 0 (spec/47_top_level.md), with reset (R410) and
what becomes unspecified at the end of a session (U10, U13). -/

namespace Sys2Proof.Machine

/-! ### Reset -/

/-- The reset state (R39, R410) reached from a running CORE: every register 0, memories unspecified from a new
generation on (U10). The source, the sink and the host's side of the ports are not touched (R411). -/
def State.coreReset (s : State) : State :=
  { State.reset with
    sw := .reset s.gen, hc := .reset s.gen, mf := .reset s.gen, port := s.port, gen := s.gen + 1 }

/-! ### The end of a session -/

/-- What slot `k` holds after generation `g` made its contents unspecified (U10, U13): nothing valid, or any table a
construction could have built (R34). -/
def freeTable (g k : Nat) : Table :=
  let limit := (Config.freeLimit g k).toNat
  let lens := (Config.freeLens g k).map BitVec.toNat
  let empty : Table :=
    { valid := false, n := (Config.freeN g k).toNat, limit := limit, maxlen := (Config.freeMaxlen g k).toNat
      len := [], code := [] }
  if Config.freeValid g k && decide (1 ≤ limit) && decide (2 ≤ lens.length) && decide (lens.length ≤ 288) then
    match buildLen limit lens with
    | .table t => t
    | .failed _ => empty
  else empty

/-- What a session leaves behind when it is over (U10): `STG`, slots 0 to 2, `MFH`, `MFP`, `IN` and `TOK` hold
unspecified contents of a new generation; the registers, the window and the channel stay (R341). -/
def State.forget (s : State) : State :=
  { s with
    hc := { slot0 := freeTable s.gen 0, slot1 := freeTable s.gen 1, slot2 := freeTable s.gen 2, stg := .unspecified s.gen }
    mf := { s.mf with
      mfh := .unspecified s.gen, mfp := .unspecified s.gen
      input := s.mf.input.mapIdx fun i _ => Config.freeByte s.gen i
      tok := s.mf.tok.mapIdx fun i _ => Config.freeWord s.gen i }
    gen := s.gen + 1 }

/-- Slots 0 to 2 discarded (R341: invalid after `Finished`; R343). -/
def State.discardAll (s : State) : State := ((s.discard 0).discard 1).discard 2

/-- A session closed by the response that carries `Finished` (R340, R341): slots 0 to 2 are invalid. -/
def State.closeFinished (s : State) : State := (s.goto .done).forget.discardAll

/-- A session closed by a fault (R340, R386): `bk.phase <- FAULT`; slots 0 to 2 "may be valid or not" (R341, U13). -/
def State.closeFaulted (s : State) : State := (s.goto .fault).forget

/-- An open session abandoned without flushing (R343, R423). -/
def State.abandon (s : State) : State := if s.sessionOpen then s.forget else s

/-! ### The start of a session -/

/-- `BK_INIT` without its check and response (R343, R40). -/
def State.startSession (P : Config.Params) (s : State) (dir : Direction) (level : Nat) : State :=
  let s0 := s.abandon.discardAll
  let s1 := { s0 with err := { kind := 0, unit := 0, info := 0 }, outq := [], bk := { Bk.reset with dir := dir } }
  match dir with
  | .decode => { s1 with bc := Bc.init .read .lsbFirst, sw := s1.sw.init windowCap }.goto .header
  | .encode =>
    ({ s1 with bc := Bc.init .write .lsbFirst, bk := { s1.bk with level := level } }.mfInit P level).goto .encRun

/-- Add to `bk.in_total`. -/
def State.countIn (s : State) (n : Nat) : State := { s with bk := { s.bk with inTotal := s.bk.inTotal + n } }

/-- `bk.in_total <- bc.nbytes` (R350). -/
def State.setIn (s : State) : State := { s with bk := { s.bk with inTotal := s.bc.nbytes } }

/-- `bk.last <- 1` where the operand says so (R344, R346, R347). -/
def State.markLast (s : State) (last : Bool) : State := { s with bk := { s.bk with last := s.bk.last || last } }

/-- A feed's response (R345). The spec gives the two counts of a feed no width: of a count of 2^32 or more the low 32 bits
are answered (DESIGN CHOICE, log entry 18). -/
def State.feedOk (s : State) (st : FeedStatus) (r0 r1 : Nat) : State :=
  s.respond { err := 0, aux := st.code, r0 := BitVec.ofNat 32 r0, r1 := BitVec.ofNat 32 r1 }

/-! ### The forms of `BK_FEED` -/

/-- `BK_FEED`, decode form (R346), with a fault's response by R348. -/
def State.feedDecode (P : Config.Params) (s : State) (last : Bool) (outCap : Nat) : Host.Outcome State Fault Refusal :=
  let s1 := s.markLast last
  match s1.decEngine P (some outCap) with
  | .status st s2 =>
    let consumed := s2.bc.nbytes - s1.bc.nbytes
    let s3 := s2.countIn consumed
    let s4 := if st = .finished then s3.closeFinished else s3
    (s4.feedOk st consumed (s2.bk.outTotal - s1.bk.outTotal)).finish
  | .raised f s2 =>
    (s2.closeFaulted.raiseCounts f (s2.bc.nbytes - s1.bc.nbytes) (s2.bk.outTotal - s1.bk.outTotal)).finish
  | .stopped why => .fault why

/-- The end of `BK_FEED`, encode form (R347): the status by what is left in `outq`. -/
def State.feedEncodeEnd (s : State) (consumed produced : Nat) : State :=
  if s.outq ≠ [] then s.feedOk .haveOutput consumed produced
  else if s.bk.phase = .encFinish then (s.sinkFlush.closeFinished).feedOk .finished consumed produced
  else s.feedOk .needMoreInput consumed produced

/-- `BK_FEED`, encode form (R347). -/
def State.feedEncode (P : Config.Params) (s : State) (last : Bool) (outCap : Nat) : Host.Outcome State Fault Refusal :=
  let s1 := s.drain (some outCap)
  let produced := s1.bk.outTotal - s.bk.outTotal
  if s1.outq = [] ∧ s1.bk.phase = .encRun then
    let consumed := s1.port.src.length
    let s2 := ((s1.mfAbsorb last).countIn consumed).markLast last
    match s2.encEngine P with
    | .ok s3 =>
      let s4 := s3.drain (some (outCap - produced))
      (s4.feedEncodeEnd consumed (s4.bk.outTotal - s.bk.outTotal)).finish
    | .error (f, s3) => (s3.closeFaulted.raiseCounts f consumed produced).finish
  else (s1.feedEncodeEnd 0 produced).finish

/-! ### Commands -/

/-- `REG_READ number` (R352). -/
def execRegRead (number : BitVec 8) (s : State) : Host.Outcome State Fault Refusal :=
  match s.readReg number.toNat with
  | some v => .next (s.ok v 0)
  | none => .next (s.misuseWith 0x01 number.toNat)

/-- `CORE_RESET` (R353). -/
def execCoreReset (s : State) : Host.Outcome State Fault Refusal := .next (s.coreReset.ok 0 0)

/-- `BK_INIT direction, level` (R343). -/
def execBkInit (direction : Direction) (level : BitVec 4) (s : State) : Host.Outcome State Fault Refusal :=
  if direction = .encode ∧ 9 < level.toNat then .next (s.misuseWith 0x50 level.toNat)
  else .next ((s.startSession params direction level.toNat).ok 0 0)

/-- `BK_COMPRESS level` (R349). A refused level leaves the counts at 0 (R93). -/
def execBkCompress (level : BitVec 4) (s : State) : Host.Outcome State Fault Refusal :=
  if 9 < level.toNat then .next (s.raiseCounts { kind := .configMisuse, unit := 5, info := level.toNat } 0 0)
  else
    let s1 := s.startSession params .encode level.toNat
    let s2 := ((s1.mfAbsorb true).countIn s1.port.src.length).markLast true
    match s2.encEngine params with
    | .ok s3 =>
      let s4 := ((s3.drain none).sinkFlush).closeFinished
      (s4.ok s4.bk.inTotal s4.bk.outTotal).finish
    | .error (f, s3) => (s3.closeFaulted.raiseCounts f s3.bk.inTotal s3.bk.outTotal).finish

/-- `BK_DECOMPRESS` (R350). -/
def execBkDecompress (s : State) : Host.Outcome State Fault Refusal :=
  let s1 := (s.startSession params .decode 0).markLast true
  match s1.decEngine params none with
  | .status _ s2 =>
    let s3 := s2.setIn.closeFinished
    (s3.ok s2.bc.nbytes s2.bk.outTotal).finish
  | .raised f s2 =>
    (s2.setIn.closeFaulted.raiseCounts f s2.bc.nbytes s2.bk.outTotal).finish
  | .stopped why => .fault why

/-- `BK_FEED last, out_cap` (R345). Without an open session it is refused with zero counts. -/
def execBkFeed (last : Bool) (outCap : Word) (s : State) : Host.Outcome State Fault Refusal :=
  if s.sessionOpen then
    match s.bk.dir with
    | .decode => s.feedDecode params last outCap.toNat
    | .encode => s.feedEncode params last outCap.toNat
  else .next (s.raiseCounts { kind := .configMisuse, unit := 5, info := 0x53 } 0 0)

end Sys2Proof.Machine
end

