-- ==== Sys2Proof/Machine/Dispatch.lean ====
section
/-! DEFINITION. One arm per command (spec/30_encoding.md R92). -/

namespace Sys2Proof.Machine

def exec (i : Instr) (s : State) : Host.Outcome State Fault Refusal :=
  match i with
  | .regRead number => Sys2Proof.Machine.execRegRead number s
  | .coreReset => Sys2Proof.Machine.execCoreReset s
  | .bcInit mode order => Sys2Proof.Machine.execBcInit mode order s
  | .bcWriteBits value count => Sys2Proof.Machine.execBcWriteBits value count s
  | .bcReadBits count => Sys2Proof.Machine.execBcReadBits count s
  | .bcPeekBits count => Sys2Proof.Machine.execBcPeekBits count s
  | .bcAlign => Sys2Proof.Machine.execBcAlign s
  | .bcFlush => Sys2Proof.Machine.execBcFlush s
  | .bcClose => Sys2Proof.Machine.execBcClose s
  | .swInit capacity => Sys2Proof.Machine.execSwInit capacity s
  | .swPush byte => Sys2Proof.Machine.execSwPush byte s
  | .swGet offset => Sys2Proof.Machine.execSwGet offset s
  | .swCopy distance length => Sys2Proof.Machine.execSwCopy distance length s
  | .hcStage index value => Sys2Proof.Machine.execHcStage index value s
  | .hcBuildFreq slot n limit => Sys2Proof.Machine.execHcBuildFreq slot n limit s
  | .hcBuildLen slot n limit => Sys2Proof.Machine.execHcBuildLen slot n limit s
  | .hcEncode slot symbol => Sys2Proof.Machine.execHcEncode slot symbol s
  | .hcDecode slot => Sys2Proof.Machine.execHcDecode slot s
  | .hcDiscard slot => Sys2Proof.Machine.execHcDiscard slot s
  | .mfInit level => Sys2Proof.Machine.execMfInit level s
  | .mfRun last => Sys2Proof.Machine.execMfRun last s
  | .mfToken index => Sys2Proof.Machine.execMfToken index s
  | .bkInit direction level => Sys2Proof.Machine.execBkInit direction level s
  | .bkCompress level => Sys2Proof.Machine.execBkCompress level s
  | .bkDecompress => Sys2Proof.Machine.execBkDecompress s
  | .bkFeed last outCap => Sys2Proof.Machine.execBkFeed last outCap s

end Sys2Proof.Machine
end

