-- ==== Sys2Proof/Machine/HostSide.lean ====
section
/-! DEFINITION. What the host does to the CORE between commands, and what the CORE answers to a word that is no command
(spec/00_scope.md R13, spec/30_encoding.md R97, spec/70_reset_and_hazards.md R410). -/

namespace Sys2Proof.Machine

/-- A reserved opcode (R97): `ConfigMisuse` with `core.err_info = op`; no other state changes. -/
def State.reserved (s : State) (op : BitVec 8) : State := s.misuse op

/-- The host puts bytes at the source port, behind what is there (R62, R344). -/
def State.supplied (s : State) (bytes : List Byte) : State := s.setSrc (s.port.src ++ bytes)

/-- The reset input (R410): the reset state, no response. -/
def State.pulledReset (s : State) : State := s.coreReset

/-- The rest of what the host is going to do. -/
def State.setScript (s : State) (script : List HostAction) : State := { s with port := { s.port with script := script } }

end Sys2Proof.Machine
end

