-- ==== Sys2Proof/Machine/Step.lean ====
section
/-! DEFINITION. One step of the machine: the host's next action. The CORE has no program counter and no instruction
memory (R26); "the order of commands is held by the host and the CORE executes them strictly in the order issued, one
at a time". -/

namespace Sys2Proof.Machine

/-- One step. With no action outstanding the CORE holds its state (R399). -/
def step (s : State) : Host.Outcome State Fault Refusal :=
  match s.port.script with
  | [] => .next s
  | .supply bytes :: rest => .next ((s.setScript rest).supplied bytes)
  | .resetInput :: rest => .next ((s.setScript rest).pulledReset)
  | .command w :: rest =>
    match decode w with
    | .ok i => exec i (s.setScript rest)
    | .error (.reservedOpcode op) => .next ((s.setScript rest).reserved op)

/-- The state whose very next step runs the command of the given table word: the host issues it first. -/
def State.withFetchWord (s : State) (nbits w : Nat) : State :=
  s.setScript (.command (BitVec.ofNat 72 (w % 2 ^ nbits)) :: s.port.script)

end Sys2Proof.Machine
end

