-- ==== Sys2Proof/Safety.lean ====
section
/-! DEFINITION. What claims are stated in: the invariants spec/10_state.md gives each unit, the invariant of the whole
machine, the conditions under which a command runs its own effect, and plain readings of bits, bytes, tokens and codes
that say what the rules say without the machine's own algorithms. -/

namespace Sys2Proof.Machine

/-! ### Command words -/

/-- The opcodes of the map R92. -/
def definedOpcodes : List (BitVec 8) :=
  [0x01, 0x02, 0x10, 0x11, 0x12, 0x13, 0x14, 0x15, 0x16, 0x20, 0x21, 0x22, 0x23, 0x30, 0x31, 0x32, 0x33, 0x34, 0x35,
    0x40, 0x41, 0x42, 0x50, 0x51, 0x52, 0x53]

/-- The bits of a command word that its opcode uses (R91, R92): the opcode and the operand sub-fields. -/
def usedBits (op : BitVec 8) : BitVec 72 :=
  match op.toNat with
  | 0x01 => 0xFF000000FF00000000
  | 0x10 => 0xFF0000000300000000
  | 0x11 => 0xFFFFFFFFFF0000003F
  | 0x12 => 0xFF000000000000003F
  | 0x13 => 0xFF000000000000003F
  | 0x20 => 0xFF0001FFFF00000000
  | 0x21 => 0xFF000000FF00000000
  | 0x22 => 0xFFFFFFFFFF00000000
  | 0x23 => 0xFFFFFFFFFFFFFFFFFF
  | 0x30 => 0xFF000001FFFFFFFFFF
  | 0x31 => 0xFF0001FF0F0000000F
  | 0x32 => 0xFF0001FF0F0000000F
  | 0x33 => 0xFF0000000F000001FF
  | 0x34 => 0xFF0000000F00000000
  | 0x35 => 0xFF0000000F00000000
  | 0x40 => 0xFF0000000F00000000
  | 0x41 => 0xFF0000000000000001
  | 0x42 => 0xFFFFFFFFFF00000000
  | 0x50 => 0xFF000000F100000000
  | 0x51 => 0xFF0000000F00000000
  | 0x53 => 0xFF00000001FFFFFFFF
  | _ => 0xFF0000000000000000

/-- The response without fault with the given results (R93). -/
def okResponse (r0 r1 : Word) : Response := { err := 0, aux := 0, r0 := r0, r1 := r1 }

/-- The response the last command got. -/
def State.lastResponse (s : State) : Option Response := s.port.responses.getLast?

/-! ### The units' invariants -/

/-- No init command has written all cells of a memory (`SW_INIT` does not clear `WIN`, R171). -/
def Mem.uncleared {α : Type} (m : Mem α) : Bool :=
  match m.fill with
  | .all _ => false
  | .unspecified _ => true

/-- The BitChannel invariants R25 (a) to (e). -/
abbrev Bc.Wf (c : Bc) : Prop :=
  c.acc >>> c.nbits = 0 ∧ c.nbits ≤ 63 ∧
    (c.mode = .write → c.nbits < 8 ∧ c.total % 8 = c.nbits ∧ c.nbytes = c.total / 8) ∧
    (c.mode = .read → (c.total + c.nbits) % 8 = 0 ∧ c.nbytes * 8 = c.total + c.nbits ∧ c.nbits ≤ 39)

/-- The window: a capacity in range or none yet (R29), bytes in canonical form inside the address range (R60), and every
byte of the history written (R30, R39). -/
structure Sw.Wf (w : Sw) : Prop where
  cap     : (w.cap = 0 ∧ w.cursor = 0) ∨ (4096 ≤ w.cap ∧ w.cap ≤ 65536)
  fill    : w.win.uncleared = true
  form    : w.win.wf = true
  range   : w.win.below 65536 = true
  written : ∀ a, a < w.hist → (Mem.find w.win.cells a).isSome = true

/-- A table memory that may be used (R32, R34, R208): lengths within the limit, canonical codes. -/
abbrev Table.Wf (t : Table) : Prop :=
  t.valid = true →
    t.n = t.len.length ∧ t.n ≤ 288 ∧ 1 ≤ t.limit ∧ t.limit ≤ 15 ∧ t.len.all (fun l => decide (l ≤ t.limit)) = true ∧
      t.maxlen = maxLen t.len ∧ t.code = assignCodes t.len (firstCodes t.len)

/-- The Kraft equality (R34, R193): `Σ 2^(-length) = 1` over the used symbols, as the integer sum at `t.limit`. -/
abbrev Table.Kraft (t : Table) : Prop := kraftSum t.limit t.len = 2 ^ t.limit

/-- The phases of a decode session (R24). -/
def Phase.decoding : Phase → Bool
  | .header => true
  | .storedLen => true
  | .storedCopy => true
  | .dynHdr => true
  | .dynCl => true
  | .dynLens => true
  | .symbol => true
  | .lenExtra => true
  | .distSym => true
  | .distExtra => true
  | .copy => true
  | .idle => false
  | .done => false
  | .fault => false
  | .encRun => false
  | .encFinish => false

/-- The phases of an encode session (R24). -/
def Phase.encoding : Phase → Bool
  | .encRun => true
  | .encFinish => true
  | .idle => false
  | .header => false
  | .storedLen => false
  | .storedCopy => false
  | .dynHdr => false
  | .dynCl => false
  | .dynLens => false
  | .symbol => false
  | .lenExtra => false
  | .distSym => false
  | .distExtra => false
  | .copy => false
  | .done => false
  | .fault => false

/-- The phases inside the tokens of a Huffman-coded block, where the block's two tables are in use (R302). -/
def Phase.usesTables : Phase → Bool
  | .symbol => true
  | .lenExtra => true
  | .distSym => true
  | .distExtra => true
  | .copy => true
  | .idle => false
  | .header => false
  | .storedLen => false
  | .storedCopy => false
  | .dynHdr => false
  | .dynCl => false
  | .dynLens => false
  | .done => false
  | .fault => false
  | .encRun => false
  | .encFinish => false

/-- What a decode session owns (R300, R303, R343): a reading LSB-first channel, the 32768-byte window, and as many
bytes delivered as were appended to the window. -/
abbrev State.DecodeSession (s : State) : Prop :=
  s.bk.dir = .decode ∧ s.bc.mode = .read ∧ s.bc.order = .lsbFirst ∧ s.bc.opened = true ∧ s.sw.cap = windowCap ∧
    s.bk.outTotal = s.sw.cursor

/-- What an encode session owns (R260, R343, R347): a writing LSB-first channel, the MatchFinder and its window. -/
abbrev State.EncodeSession (s : State) : Prop :=
  s.bk.dir = .encode ∧ s.bc.mode = .write ∧ s.bc.order = .lsbFirst ∧ s.bc.opened = true ∧ s.mf.opened = true ∧
    s.sw.cap = windowCap

/-- The ranges of the decoder's registers in the phases that use them (R27), and the tables those phases use (R302). -/
structure State.DecoderRanges (s : State) : Prop where
  dynamic : s.bk.phase = .dynHdr ∨ s.bk.phase = .dynCl ∨ s.bk.phase = .dynLens → s.bk.kind = 2
  counts  : s.bk.phase = .dynCl ∨ s.bk.phase = .dynLens → s.bk.nlit ≤ 286 ∧ s.bk.ndist ≤ 30
  clIndex : s.bk.phase = .dynCl → s.bk.idx < s.bk.ncl ∧ s.bk.ncl ≤ 19
  lens    : s.bk.phase = .dynLens → s.bk.idx ≤ s.bk.nlit + s.bk.ndist ∧ s.hc.slot2.valid = true
  tables  : s.bk.phase.usesTables = true →
    s.bk.kind = 1 ∨ (s.bk.kind = 2 ∧ s.hc.slot0.valid = true ∧ s.hc.slot1.valid = true)
  lenSym  : s.bk.phase = .lenExtra → 257 ≤ s.bk.lenSym ∧ s.bk.lenSym ≤ 285
  length  : s.bk.phase = .distSym ∨ s.bk.phase = .distExtra → 3 ≤ s.bk.length ∧ s.bk.length ≤ 258
  distSym : s.bk.phase = .distExtra → s.bk.distSym < 30
  copying : s.bk.phase = .copy → s.bk.copyRem ≤ 258 ∧ s.sw.reaches s.bk.dist = true

/-- The invariant of the machine: every unit's own invariant, and what an open session owns. -/
structure State.Inv (s : State) : Prop where
  channel  : s.bc.Wf
  window   : s.sw.Wf
  staging  : s.hc.stg.wf = true ∧ s.hc.stg.below 320 = true
  heads    : s.mf.mfh.wf = true ∧ s.mf.mfh.below 32768 = true
  links    : s.mf.mfp.wf = true ∧ s.mf.mfp.below 32768 = true
  slots    : s.hc.slot0.Wf ∧ s.hc.slot1.Wf ∧ s.hc.slot2.Wf
  finder   : s.mf.opened = true → s.sw.cap ≠ 0 ∧ s.mf.pos ≤ s.mf.known ∧ s.mf.level ≤ 9
  decodes  : s.bk.phase.decoding = true → s.DecodeSession
  encodes  : s.bk.phase.encoding = true → s.EncodeSession
  running  : s.bk.phase = .encRun → s.bk.last = false ∧ s.bc.flushed = false
  decoder  : s.DecoderRanges

/-- The constraints the spec puts on the named parameters (R233, R234, R261). -/
structure LawfulParams (P : Config.Params) : Prop where
  hash   : ∀ b0 b1 b2, P.hash b0 b1 b2 < 2 ^ P.hashBits
  chain  : ∀ l, 1 ≤ l → l ≤ 9 → 1 ≤ (P.effort l).maxChain
  effort : ∀ l, l < 9 → (P.effort l).maxChain ≤ (P.effort (l + 1)).maxChain ∧
    (P.effort l).lazyThr ≤ (P.effort (l + 1)).lazyThr
  block  : 1 ≤ P.blockMaxTokens

/-! ### When a command runs its own effect -/

/-- The channel's two counters have room for `n` more (U9). -/
abbrev Bc.Room (c : Bc) (n : Nat) : Prop := c.total + n < 2 ^ 64 ∧ c.nbytes + n < 2 ^ 64

/-- A host command finds the channel open in a mode, no session owning it (R140). -/
abbrev State.ChannelReady (s : State) (mode : Mode) : Prop :=
  s.sessionOpen = false ∧ s.bc.opened = true ∧ s.bc.mode = mode ∧ s.bc.Wf

/-- A host command finds the window created, no session owning it (R170). -/
abbrev State.WindowReady (s : State) : Prop := s.sessionOpen = false ∧ s.sw.cap ≠ 0

/-! ### Plain readings -/

/-- A byte as it passes between the port and the accumulator (R66, R67): reversed in MSB-first order. -/
def passes (o : Order) (b : Byte) : Byte :=
  match o with
  | .lsbFirst => b
  | .msbFirst => b.reverse

/-- The number whose bit `i` is stream bit `i` of a byte sequence (R65 to R67). -/
def streamValue (o : Order) : List Byte → Nat
  | [] => 0
  | b :: rest => (passes o b).toNat + 256 * streamValue o rest

/-- The `k` bytes of a number, lowest first, as an endpoint sees them (R65 to R67). -/
def streamBytes (o : Order) (k : Nat) (x : Nat) : List Byte :=
  (List.range k).map fun j => passes o (BitVec.ofNat 8 (x / 256 ^ j % 256))

/-- The bits a reading channel can still supply, as a number (R65): the pending bits, then the source. -/
def State.upcoming (s : State) : Nat := s.bc.acc.toNat + 2 ^ s.bc.nbits * streamValue s.bc.order s.port.src

/-- The bytes the minimal fetch takes for a field of `n` bits (R148). -/
def Bc.fetches (c : Bc) (n : Nat) : Nat := (n - c.nbits + 7) / 8

/-- The values of consecutive fields of the given widths in a number, lowest field first (R65, R150). -/
def splitFields : List Nat → Nat → List Nat
  | [], _ => []
  | c :: rest, x => x % 2 ^ c :: splitFields rest (x / 2 ^ c)

/-- The response of a read or write that completed with a result. -/
def okValue (v : Nat) : Response := okResponse (BitVec.ofNat 32 v) 0

/-- The response to a raised error outside the session commands (R93, R386). -/
def errorResponse (kind : BitVec 8) (info : Word) : Response := { err := kind, aux := 0, r0 := info, r1 := 0 }

/-- The bits of a code of length `l` as a field that is read or written, the code's first bit lowest (R104). -/
def codeField (l c : Nat) : Nat := (BitVec.ofNat l c).reverse.toNat

/-- What a token appends to the bytes before it (R244, R175): a literal its byte, a match the overlapping copy. -/
def replayToken (out : List Byte) : Token → List Byte
  | .lit b => out ++ [b]
  | .copy length distance =>
    out ++ (List.range length).map fun i => out.getD (out.length - distance + i % distance) 0

/-- The bytes a token sequence stands for after the bytes before it (R244). -/
def replay (out : List Byte) (tokens : List Token) : List Byte := tokens.foldl replayToken out

/-- The bounds of a match token found where `before` input bytes precede it (R240). -/
def tokenInBounds (before : Nat) : Token → Bool
  | .lit _ => true
  | .copy length distance =>
    3 ≤ length && length ≤ 258 && 1 ≤ distance && distance ≤ 32768 && distance ≤ before

/-- Every token of a sequence is in bounds, the input bytes before the first being `before` (R240). -/
def tokensInBounds : Nat → List Token → Bool
  | _, [] => true
  | before, t :: rest => tokenInBounds before t && tokensInBounds (before + t.covers) rest

/-- The canonical code of symbol `s` (R208, R209): the codes before it in the order (length, symbol), each taking its
share of the code space at `s`'s own length. -/
def canonicalCode (len : List Nat) (s : Nat) : Nat :=
  let l := len.getD s 0
  if l = 0 then 0
  else ((List.range len.length).map fun s' =>
    let l' := len.getD s' 0
    if l' ≠ 0 ∧ (l' < l ∨ (l' = l ∧ s' < s)) then 2 ^ (l - l') else 0).sum

/-- The code lengths a run-length coded sequence stands for (R122), the lengths before it given. -/
def expandRuns (out : List Nat) : List (Nat × Nat) → List Nat
  | [] => out
  | (sym, k) :: rest =>
    if sym < 16 then expandRuns (out ++ [sym]) rest
    else if sym = 16 then expandRuns (out ++ List.replicate k (out.getLastD 0)) rest
    else expandRuns (out ++ List.replicate k 0) rest

/-- A pair of the run-length coding that its symbol's extra bits can carry (R122). -/
def runInRange (p : Nat × Nat) : Bool :=
  p.1 ≤ 15 || (p.1 == 16 && 3 ≤ p.2 && p.2 ≤ 6) || (p.1 == 17 && 3 ≤ p.2 && p.2 ≤ 10) ||
    (p.1 == 18 && 11 ≤ p.2 && p.2 ≤ 138)

/-- The number of stream bits an operation adds when `t0` bits are before it (R145, R156). -/
def WOp.bitsAt (t0 : Nat) : WOp → Nat
  | .bits _ n => n
  | .align => (8 - t0 % 8) % 8

/-- The number of stream bits operations add when `t0` bits are before them. -/
def opsBits : Nat → List WOp → Nat
  | _, [] => 0
  | t0, op :: rest => op.bitsAt t0 + opsBits (t0 + op.bitsAt t0) rest

/-- The bytes of one byte-aligned stored block of the stream (R108). -/
def storedBlockBytes (final : Bool) (piece : List Byte) : List Byte :=
  [BitVec.ofNat 8 final.toNat, BitVec.ofNat 8 piece.length, BitVec.ofNat 8 (piece.length / 256),
    ~~~(BitVec.ofNat 8 piece.length), ~~~(BitVec.ofNat 8 (piece.length / 256))] ++ piece

/-- A stream of stored blocks of 16384 bytes, `k` full ones before the final one (R279). -/
def storedFileFrom : Nat → List Byte → List Byte
  | 0, bytes => storedBlockBytes true bytes
  | k + 1, bytes => storedBlockBytes false (bytes.take 16384) ++ storedFileFrom k (bytes.drop 16384)

/-- The stream level 0 gives an input (R261, R279): as many blocks as it takes, one for an empty input. -/
def storedFile (bytes : List Byte) : List Byte := storedFileFrom ((bytes.length - 1) / 16384) bytes

/-- The number of blocks an input of `n` bytes is cut into at most (R261, R285). -/
def blocksFor (n : Nat) : Nat := max 1 ((n + 16383) / 16384)

/-- The canonical length array has a table that decodes every bit string (R34): at least two used symbols, lengths
within the limit, Kraft equality, canonical codes. -/
structure Table.Complete (t : Table) : Prop where
  used  : 2 ≤ (t.len.filter fun l => decide (l ≠ 0)).length
  limit : ∀ l ∈ t.len, l ≤ t.limit
  kraft : t.Kraft
  codes : t.code = (List.range t.len.length).map (canonicalCode t.len)

/-- The registers hold what their widths can hold (R22 to R36), so that `REG_READ` shows them whole. -/
structure State.Widths (s : State) : Prop where
  channel : s.bc.nbits < 2 ^ 6
  window  : s.sw.cap < 2 ^ 17
  tables  : ∀ k, k < 3 → (s.table k).n < 2 ^ 9 ∧ (s.table k).limit < 2 ^ 4 ∧ (s.table k).maxlen < 2 ^ 4
  finder  : s.mf.level < 2 ^ 4 ∧ s.mf.maxChain < 2 ^ 13 ∧ s.mf.lazyThr < 2 ^ 9
  codec   : s.bk.level < 2 ^ 4 ∧ s.bk.storedRem < 2 ^ 16 ∧ s.bk.copyRem < 2 ^ 9 ∧ s.bk.dist < 2 ^ 17 ∧
    s.bk.length < 2 ^ 9 ∧ s.bk.lenSym < 2 ^ 9 ∧ s.bk.distSym < 2 ^ 5 ∧ s.bk.nlit < 2 ^ 9 ∧ s.bk.ndist < 2 ^ 6 ∧
    s.bk.ncl < 2 ^ 5 ∧ s.bk.idx < 2 ^ 9 ∧ s.bk.ntok < 2 ^ 15
  counts  : s.countersFit = true

/-- The word of each register number, its fields side by side (R22, R23, R27, R28, R29, R33, R36). -/
def registerWord (s : State) (number : Nat) : Word :=
  let lo (x : Nat) : Word := BitVec.ofNat 32 x
  let hi (x : Nat) : Word := BitVec.ofNat 32 (x / 2 ^ 32)
  let table (t : Table) : Word := 0#15 ++ BitVec.ofNat 4 t.maxlen ++ BitVec.ofNat 4 t.limit ++ BitVec.ofNat 9 t.n
  match number with
  | 0x00 => 0#16 ++ s.err.unit ++ s.err.kind
  | 0x01 => s.err.info
  | 0x10 => 0#28 ++ BitVec.ofBool s.bc.flushed ++ BitVec.ofBool s.bc.opened ++ BitVec.ofBool (s.bc.order == .msbFirst) ++
      BitVec.ofBool (s.bc.mode == .write)
  | 0x11 => s.bc.acc.extractLsb' 0 32
  | 0x12 => s.bc.acc.extractLsb' 32 32
  | 0x13 => 0#26 ++ BitVec.ofNat 6 s.bc.nbits
  | 0x14 => lo s.bc.total
  | 0x15 => hi s.bc.total
  | 0x16 => lo s.bc.nbytes
  | 0x17 => hi s.bc.nbytes
  | 0x20 => 0#15 ++ BitVec.ofNat 17 s.sw.cap
  | 0x21 => lo s.sw.cursor
  | 0x22 => hi s.sw.cursor
  | 0x30 => 0#27 ++ 1#1 ++ 1#1 ++ BitVec.ofBool s.hc.slot2.valid ++ BitVec.ofBool s.hc.slot1.valid ++
      BitVec.ofBool s.hc.slot0.valid
  | 0x38 => table s.hc.slot0
  | 0x39 => table s.hc.slot1
  | 0x3A => table s.hc.slot2
  | 0x3B => table (s.table 3)
  | 0x3C => table (s.table 4)
  | 0x40 => 0#26 ++ BitVec.ofBool s.mf.last ++ BitVec.ofBool s.mf.opened ++ BitVec.ofNat 4 s.mf.level
  | 0x41 => lo s.mf.pos
  | 0x42 => hi s.mf.pos
  | 0x43 => 0#7 ++ BitVec.ofNat 9 s.mf.lazyThr ++ 0#3 ++ BitVec.ofNat 13 s.mf.maxChain
  | 0x44 => lo s.mf.input.length
  | 0x45 => hi s.mf.input.length
  | 0x46 => lo s.mf.tok.length
  | 0x50 => 0#16 ++ BitVec.ofNat 4 s.bk.level ++ 0#2 ++ BitVec.ofBool s.bk.last ++
      BitVec.ofBool (s.bk.dir == .encode) ++ s.bk.kind ++ BitVec.ofBool s.bk.final ++ BitVec.ofNat 5 s.bk.phase.code
  | 0x51 => 0#16 ++ BitVec.ofNat 16 s.bk.storedRem
  | 0x52 => 0#6 ++ BitVec.ofNat 17 s.bk.dist ++ BitVec.ofNat 9 s.bk.copyRem
  | 0x53 => 0#9 ++ BitVec.ofNat 5 s.bk.distSym ++ BitVec.ofNat 9 s.bk.lenSym ++ BitVec.ofNat 9 s.bk.length
  | 0x54 => 0#12 ++ BitVec.ofNat 5 s.bk.ncl ++ BitVec.ofNat 6 s.bk.ndist ++ BitVec.ofNat 9 s.bk.nlit
  | 0x55 => 0#23 ++ BitVec.ofNat 9 s.bk.idx
  | 0x56 => lo s.bk.outTotal
  | 0x57 => hi s.bk.outTotal
  | 0x58 => lo s.bk.inTotal
  | 0x59 => hi s.bk.inTotal
  | 0x5A => lo s.bk.blkStart
  | 0x5B => hi s.bk.blkStart
  | 0x5C => 0#17 ++ BitVec.ofNat 15 s.bk.ntok
  | 0x5D => BitVec.ofNat 32 (min s.outq.length (2 ^ 32 - 1))
  | _ => 0

/-- A refused command (R378): the error registers and the response, nothing else. -/
def State.refusedWith (s : State) (unit : BitVec 8) (info : Word) : State :=
  { s with err := { kind := 6, unit := unit, info := info } }.respond (errorResponse 6 info)

/-- The state after a list of commands issued one after another; the first stop ends it. -/
def execAll : List Instr → State → Host.Outcome State Fault Refusal
  | [], s => .next s
  | i :: rest, s =>
    match exec i s with
    | .next s' => execAll rest s'
    | .fault f => .fault f
    | .refused r => .refused r

/-! ### Inside a decode session -/

/-- The state once a field of `n` bits is at hand (R148): as few bytes taken as it needs, no bit consumed. -/
def State.afterFetch (s : State) (n : Nat) : State :=
  let k := s.bc.fetches n
  { s with
    bc := { s.bc with
      acc := BitVec.ofNat 64 (s.bc.acc.toNat + 2 ^ s.bc.nbits * streamValue s.bc.order (s.port.src.take k))
      nbits := s.bc.nbits + 8 * k, nbytes := s.bc.nbytes + k }
    port := { s.port with src := s.port.src.drop k } }

/-- The state once a field of `n` bits has been read (R147). -/
def State.afterField (s : State) (n : Nat) : State :=
  let u := s.afterFetch n
  { u with bc := { u.bc with acc := u.bc.acc >>> n, nbits := u.bc.nbits - n, total := s.bc.total + n } }

/-- A byte of the decoder's output (R303): into the window, to the sink, counted. -/
def State.afterByte (s : State) (b : Byte) : State :=
  { s with
    sw := { s.sw with win := s.sw.win.set (s.sw.cursor % s.sw.cap) b, cursor := s.sw.cursor + 1 }
    port := { s.port with sink := s.port.sink ++ [b] }
    bk := { s.bk with outTotal := s.bk.outTotal + 1 } }

/-- A block's end (R304): a dynamic block's tables are discarded, the next header or the end follows. -/
def State.afterBlock (s : State) : State :=
  { s with
    hc := if s.bk.kind = 2 then
        { s.hc with slot0 := { s.hc.slot0 with valid := false }, slot1 := { s.hc.slot1 with valid := false } }
      else s.hc
    bk := { s.bk with phase := if s.bk.final then .done else .header } }

/-- The next stream bits are the code of a symbol of slot `k` (R104), at least `extra` bits behind it. -/
abbrev State.comesNext (s : State) (k symbol extra : Nat) : Prop :=
  symbol < (s.table k).n ∧ (s.table k).len.getD symbol 0 ≠ 0 ∧
    (s.table k).len.getD symbol 0 + extra ≤ s.bc.nbits + 8 * s.port.src.length ∧
    s.upcoming % 2 ^ (s.table k).len.getD symbol 0 =
      codeField ((s.table k).len.getD symbol 0) ((s.table k).code.getD symbol 0)

/-- The base value and the number of extra bits of length symbol `257 + i` (R110), row by row of the format's table. -/
def lengthBucket (i : Nat) : Nat × Nat :=
  if i < 8 then (3 + i, 0) else if i = 28 then (258, 0) else (3 + (4 + i % 4) * 2 ^ (i / 4 - 1), i / 4 - 1)

/-- The base value and the number of extra bits of distance symbol `j` (R111). -/
def distanceBucket (j : Nat) : Nat × Nat :=
  if j < 4 then (1 + j, 0) else (1 + (2 + j % 2) * 2 ^ (j / 2 - 1), j / 2 - 1)

/-- The state after `n` completed micro-steps; none where one of them holds or raises. -/
def stepsFrom (P : Config.Params) : Nat → State → Option State
  | 0, s => some s
  | n + 1, s =>
    match microStep P s with
    | some (.ok _ t) => stepsFrom P n t
    | _ => none

/-! ### Streaming sessions -/

/-- One `BK_FEED` of a host: the bytes it adds to the source first, and the two operands. -/
structure Feed where
  chunk  : List Byte
  last   : Bool
  outCap : Word
deriving DecidableEq, Repr

/-- The state after a host's feeds, which end with the session (R345, R428). -/
def feedAll : List Feed → State → Host.Outcome State Fault Refusal
  | [], s => .next s
  | f :: rest, s =>
    if s.sessionOpen then
      match exec (.bkFeed f.last f.outCap) { s with port := { s.port with src := s.port.src ++ f.chunk } } with
      | .next t => feedAll rest t
      | .fault why => .fault why
      | .refused why => .refused why
    else .next s

/-- The whole input of a list of feeds. -/
def fedBytes (feeds : List Feed) : List Byte := (feeds.map Feed.chunk).flatten

/-- No byte is added after the end was marked (R428). -/
def endMarkedOnce : List Feed → Bool
  | [] => true
  | f :: rest => (!f.last || (fedBytes rest).isEmpty) && endMarkedOnce rest

/-- The one-shot command of a direction (R349, R350). -/
def oneShot : Direction → BitVec 4 → Instr
  | .decode, _ => .bkDecompress
  | .encode, level => .bkCompress level

end Sys2Proof.Machine
end

