-- ==== Sys2Proof/Certificates/Slice0/Obligations.lean ====
section
/-! DEFINITION. The statements for the provers, from the numbered rules of spec/. The default values of the OPEN
parameters (R8, log entry 7) stand in every statement about `exec`. -/

section ObligationStatements

open Sys2Proof Sys2Proof.Machine

/-! ### Command words -/

/-- R91, R92: decoding the word of a command gives the command back, every operand at every value its field holds. -/
def Obligations.DecodeInvertsEncode : Prop := ∀ i : Instr, decode (encode i) = .ok i

/-- R91: "Bits of `a` and `b` that an opcode does not use are ignored by the hardware and should be written as zero":
a word that decodes is the command's own word but for the bits its opcode does not use. -/
def Obligations.EncodeRestoresUsedBits : Prop :=
  ∀ (w : BitVec 72) (i : Instr), decode w = .ok i →
    encode i = w &&& usedBits (opOf w) ∧
      ∀ u : BitVec 72, u &&& usedBits (opOf w) = w &&& usedBits (opOf w) → decode u = .ok i

/-- R97: a reserved opcode is answered `ConfigMisuse` with the opcode recorded, and so is an operand out of the range its
rule states; nothing but the error registers changes. The unit recorded for a reserved opcode is R372's as log entry 11
reads it (DEDUCED): the unit nibble where that unit exists, else 0. -/
def Obligations.ReservedEncodingsAreMisuse : Prop :=
  (∀ (w : BitVec 72) (rest : List HostAction) (s : State), opOf w ∉ definedOpcodes →
      s.port.script = .command w :: rest →
      step s = .next (({ s with port := { s.port with script := rest } }).refusedWith
        (if (opOf w).toNat < 0x60 then opOf w >>> 4 else 0) ((opOf w).setWidth 32))) ∧
    (∀ (i : Instr) (s : State), i.wellFormed = false →
      ∃ (info r0 : Word), exec i s = .next
        ({ s with err := { kind := 6, unit := i.opcode >>> 4, info := info } }.respond (errorResponse 6 r0)))

/-- R378: the commands whose rule names the offending operand record it. That the response of a refused `BK_COMPRESS` has
`r0 = 0` (its counts, not the recorded value) is log entry 10's reading of R93 and R345 (DEDUCED). -/
def Obligations.OffendingOperandIsRecorded : Prop :=
  (∀ (number : BitVec 8) (s : State), Instr.listedRegister number.toNat = false →
      exec (.regRead number) s = .next (s.refusedWith 0 (number.setWidth 32))) ∧
    (∀ (capacity : BitVec 17) (s : State), s.sessionOpen = false → (capacity.toNat < 4096 ∨ 65536 < capacity.toNat) →
      exec (.swInit capacity) s = .next (s.refusedWith 2 (capacity.setWidth 32))) ∧
    (∀ (slot : BitVec 4) (symbol : BitVec 9) (s : State), s.sessionOpen = false → slot.toNat ≤ 4 →
      (s.table slot.toNat).valid = true → (s.table slot.toNat).n ≤ symbol.toNat →
      exec (.hcEncode slot symbol) s = .next (s.refusedWith 3 (symbol.setWidth 32))) ∧
    (∀ (level : BitVec 4) (s : State), s.sessionOpen = false → 9 < level.toNat →
      exec (.mfInit level) s = .next (s.refusedWith 4 (level.setWidth 32))) ∧
    (∀ (index : Word) (s : State), s.sessionOpen = false → s.mf.opened = true → s.mf.tok.length ≤ index.toNat →
      exec (.mfToken index) s = .next (s.refusedWith 4 index)) ∧
    (∀ (level : BitVec 4) (s : State), 9 < level.toNat →
      exec (.bkInit .encode level) s = .next (s.refusedWith 5 (level.setWidth 32)) ∧
        exec (.bkCompress level) s = .next
          ({ s with err := { kind := 6, unit := 5, info := level.setWidth 32 } }.respond (errorResponse 6 0)))

/-- R92, R98: words written out from the map's bit numbers. -/
def Obligations.SpecWordsDecode : Prop :=
  decode (0x11#8 ++ 0x0000001F#32 ++ 0x00000005#32) = .ok (.bcWriteBits 0x1F 5) ∧
    decode (0x10#8 ++ 0x00000003#32 ++ 0x00000000#32) = .ok (.bcInit .write .msbFirst) ∧
    decode (0x23#8 ++ 0x00000002#32 ++ 0x00000004#32) = .ok (.swCopy 2 4) ∧
    decode (0x32#8 ++ 0x00000401#32 ++ 0x0000000F#32) = .ok (.hcBuildLen 1 4 15) ∧
    decode (0x41#8 ++ 0x00000000#32 ++ 0x00000001#32) = .ok (.mfRun true) ∧
    decode (0x50#8 ++ 0x00000061#32 ++ 0x00000000#32) = .ok (.bkInit .encode 6) ∧
    decode (0x53#8 ++ 0x00000001#32 ++ 0x00000064#32) = .ok (.bkFeed true 100) ∧
    decode (0x01#8 ++ 0x00000030#32 ++ 0x00000000#32) = .ok (.regRead 0x30)

/-! ### One step -/

/-- R26 (a), R76: when the host's next action is a word that decodes to a command, the step is that command, the action
taken off the host's list and nothing else added. -/
def Obligations.StepRunsDecodedCommand : Prop :=
  ∀ (s : State) (w : BitVec 72) (i : Instr) (rest : List HostAction), s.port.script = .command w :: rest →
    decode w = .ok i → step s = exec i { s with port := { s.port with script := rest } }

/-- R399, R62, R410: an idle CORE holds its state; bytes the host supplies queue up behind those at the source; the
reset input does what `CORE_RESET` does, without a response. -/
def Obligations.HostActionsAndIdle : Prop :=
  (∀ s : State, s.port.script = [] → step s = .next s) ∧
    (∀ (s : State) (bytes : List Byte) (rest : List HostAction), s.port.script = .supply bytes :: rest →
      step s = .next { s with port := { s.port with script := rest, src := s.port.src ++ bytes } }) ∧
    (∀ (s : State) (rest : List HostAction), s.port.script = .resetInput :: rest →
      ∃ t, step s = .next t ∧ t.port = { s.port with script := rest } ∧
        exec .coreReset { s with port := t.port } = .next (t.respond (okResponse 0 0)))

/-! ### Reset -/

/-- R39, R410: after reset every register reads 0, slots 0 to 2 are invalid, slots 3 and 4 valid, `outq` empty. -/
def Obligations.ResetRegisterValues : Prop :=
  (∀ number : BitVec 8, Instr.listedRegister number.toNat = true → number ≠ 0x30 → number ≠ 0x3B → number ≠ 0x3C →
      registerWord State.reset number.toNat = 0) ∧
    registerWord State.reset 0x30 = 0x18 ∧ State.reset.outq = [] ∧ State.reset.bk.phase = .idle ∧
    (State.reset.table 3).len = List.replicate 144 8 ++ List.replicate 112 9 ++ List.replicate 24 7 ++ List.replicate 8 8 ∧
    (State.reset.table 4).len = List.replicate 32 5

/-- The reset state meets the invariant, the tables' invariant and the registers' widths. -/
def Obligations.ResetHasInvariant : Prop :=
  State.reset.Inv ∧ State.reset.Widths ∧ ∀ k, k < 3 → (State.reset.table k).valid = false

/-- R353, R410, R411: `CORE_RESET` from any state, an open session included. The source, the sink and the host's side of
the ports stay; `WIN` and `STG` keep no written cell; the registers are those of reset. That slots 0 to 2 read `n`,
`limit`, `maxlen` 0 and are held with empty length and code arrays (`Table.blank`) is log entry 6 (DEDUCED, DESIGN
CHOICE): R39 calls `t.len` and `t.code` unspecified. -/
def Obligations.CoreResetResult : Prop :=
  ∀ s : State, ∃ t, exec .coreReset s = .next (t.respond (okResponse 0 0)) ∧ t.port = s.port ∧
    t.err = { kind := 0, unit := 0, info := 0 } ∧ t.bc = State.reset.bc ∧ t.bk = State.reset.bk ∧ t.outq = [] ∧
    t.sw.cap = 0 ∧ t.sw.cursor = 0 ∧ t.sw.win.cells = [] ∧ t.hc.stg.cells = [] ∧
    (∀ k, k < 3 → t.table k = Table.blank) ∧
    t.mf = { State.reset.mf with mfh := t.mf.mfh, mfp := t.mf.mfp } ∧
    (∀ number : BitVec 8, Instr.listedRegister number.toNat = true →
      registerWord t number.toNat = registerWord State.reset number.toNat)

/-! ### Invariants -/

/-- R25, R30, R32, R60, R303: every step keeps the invariant of the machine. -/
def Obligations.StepKeepsInvariant : Prop := ∀ s t : State, s.Inv → step s = .next t → t.Inv

/-- R334, R431: from a state with the invariant no step ends in one of the model's named stops that mark unreachable
states, so every command is answered or, by the counters' contract (U9), refused. -/
def Obligations.StepNeverFaults : Prop :=
  ∀ s : State, s.Inv → (∃ t, step s = .next t) ∨ step s = .refused .counterOverflow

/-- R22 to R36: every step keeps every register within its width. -/
def Obligations.RegistersKeepTheirWidths : Prop :=
  ∀ s t : State, s.Inv → s.Widths → step s = .next t → t.Widths

/-- R34: every step keeps the tables complete: a slot that is valid has at least two used symbols, lengths within its
limit, Kraft equality and the canonical codes. -/
def Obligations.BuiltTablesStayComplete : Prop :=
  ∀ s t : State, s.Inv → (∀ k, k < 3 → (s.table k).valid = true → (s.table k).Complete) → step s = .next t →
    ∀ k, k < 5 → (t.table k).valid = true → (t.table k).Complete

/-- R26, R165, U9 (log entry 8): `SW_PUSH`, `SW_COPY`, `BC_WRITE_BITS` and `BC_READ_BITS` that would carry `sw.cursor` or
`bc.total` past 2^64 - 1 are refused by name; whatever command is refused, the reason named is that one. -/
def Obligations.CounterOverflowIsRefused : Prop :=
  (∀ (byte : Byte) (s : State), s.WindowReady → s.sw.cursor + 1 = 2 ^ 64 →
      exec (.swPush byte) s = .refused .counterOverflow) ∧
    (∀ (distance length : Word) (s : State), s.WindowReady → s.sw.reaches distance.toNat = true →
      2 ^ 64 ≤ s.sw.cursor + length.toNat → exec (.swCopy distance length) s = .refused .counterOverflow) ∧
    (∀ (value : Word) (count : BitVec 6) (s : State), s.ChannelReady .write → s.bc.flushed = false → count.toNat ≤ 32 →
      2 ^ 64 ≤ s.bc.total + count.toNat → exec (.bcWriteBits value count) s = .refused .counterOverflow) ∧
    (∀ (count : BitVec 6) (s : State), s.ChannelReady .read → count.toNat ≤ 32 →
      count.toNat ≤ s.bc.nbits + 8 * s.port.src.length →
      2 ^ 64 ≤ s.bc.total + count.toNat → exec (.bcReadBits count) s = .refused .counterOverflow) ∧
    (∀ (i : Instr) (s : State) (r : Refusal), exec i s = .refused r → r = .counterOverflow)

/-! ### Registers and responses -/

/-- R352: `REG_READ` of a listed number answers the register's word, in every phase, and changes nothing; a number that
is not listed is refused with the number recorded. -/
def Obligations.RegReadReturnsTheRegister : Prop :=
  ∀ (number : BitVec 8) (s : State),
    exec (.regRead number) s = .next
      (if Instr.listedRegister number.toNat then s.respond (okResponse (registerWord s number.toNat) 0)
       else s.refusedWith 0 (number.setWidth 32))

/-- R64: "`SW_GET`, `HC_ENCODE`, `MF_TOKEN`, `REG_READ` are idempotent: repeating them changes no state and returns the
same value"; `BC_PEEK_BITS` is idempotent in its result and in `bc.total`, its first issue may take bytes. -/
def Obligations.ReadsAreIdempotent : Prop :=
  (∀ (i : Instr) (s t : State),
      ((∃ o, i = .swGet o) ∨ (∃ k sym, i = .hcEncode k sym) ∨ (∃ x, i = .mfToken x) ∨ (∃ n, i = .regRead n)) →
      exec i s = .next t →
      ∃ r, t = { s with err := t.err, port := { s.port with responses := s.port.responses ++ [r] } } ∧
        (r.err = 0 → t.err = s.err) ∧ exec i t = .next (t.respond r)) ∧
    (∀ (count : BitVec 6) (s t : State), exec (.bcPeekBits count) s = .next t →
      t.bc.total = s.bc.total ∧ ∃ r, t.port.responses = s.port.responses ++ [r] ∧ exec (.bcPeekBits count) t = .next (t.respond r))

/-- R90, R93: a command gets one response; a response with an error carries the error registers' kind and, but for the
session commands, their value; only `BK_FEED` sets `aux`. The host's list of actions is not touched. -/
def Obligations.OneResponsePerCommand : Prop :=
  ∀ (i : Instr) (s t : State), exec i s = .next t →
    ∃ r, t.port.responses = s.port.responses ++ [r] ∧ t.port.script = s.port.script ∧
      r.err.toNat ≤ 6 ∧ r.aux.toNat ≤ 3 ∧
      (r.err ≠ 0 → t.err.kind = r.err ∧ r.aux = 0) ∧
      (r.err ≠ 0 → i.opcode.toNat < 0x51 → r.r0 = t.err.info ∧ r.r1 = 0) ∧
      ((∀ last cap, i ≠ .bkFeed last cap) → r.aux = 0)

/-- R22: the error registers are written only by a fault and cleared only by `CORE_RESET`, `BK_INIT`, `BK_COMPRESS` and
`BK_DECOMPRESS`. -/
def Obligations.ErrorRegistersAreSticky : Prop :=
  ∀ (i : Instr) (s t : State) (r : Response), exec i s = .next t → t.port.responses = s.port.responses ++ [r] →
    r.err = 0 →
    if i.opcode ∈ [0x02#8, 0x50#8, 0x51#8, 0x52#8] then
      t.err = { kind := 0, unit := 0, info := 0 }
    else t.err = s.err

/-- R378: "A refused command changes no state except `core.err`, `core.err_unit`, `core.err_info`; in particular it does
not end or disturb an open session". -/
def Obligations.RefusedCommandChangesNothing : Prop :=
  ∀ (i : Instr) (s t : State) (r : Response), exec i s = .next t → t.port.responses = s.port.responses ++ [r] →
    r.err = 6 → t = { s with err := t.err, port := { s.port with responses := s.port.responses ++ [r] } }

/-- R21, R341: while a session is open every command of units 1 to 4 is answered `ConfigMisuse` with its unit and its
opcode recorded, and changes nothing else. -/
def Obligations.OwnedUnitsRefuseCommands : Prop :=
  ∀ (i : Instr) (s : State), s.sessionOpen = true → 0x10 ≤ i.opcode.toNat → i.opcode.toNat < 0x50 →
    exec i s = .next (s.refusedWith (i.opcode >>> 4) (i.opcode.setWidth 32))

/-- R170, R190, R212, R214, R230, R235, R345: a command to a unit that is not ready for it is answered `ConfigMisuse`
with its opcode recorded. -/
def Obligations.ClosedUnitsRefuseCommands : Prop :=
  ∀ s : State, s.sessionOpen = false →
    (s.sw.cap = 0 → ∀ byte offset distance length, ∀ i ∈ [Instr.swPush byte, .swGet offset, .swCopy distance length],
      exec i s = .next (s.refusedWith 2 (i.opcode.setWidth 32))) ∧
    (s.mf.opened = false → ∀ last index, ∀ i ∈ [Instr.mfRun last, .mfToken index],
      exec i s = .next (s.refusedWith 4 (i.opcode.setWidth 32))) ∧
    (s.mf.last = true → ∀ last, exec (.mfRun last) s = .next (s.refusedWith 4 0x41)) ∧
    (∀ slot : BitVec 4, (s.table slot.toNat).valid = false → ∀ symbol,
      ∀ i ∈ [Instr.hcEncode slot symbol, .hcDecode slot], exec i s = .next (s.refusedWith 3 (i.opcode.setWidth 32))) ∧
    (s.bc.opened = false ∨ s.bc.mode = .write → ∀ slot, exec (.hcDecode slot) s = .next (s.refusedWith 3 0x34)) ∧
    (∀ last cap, exec (.bkFeed last cap) s = .next
      ({ s with err := { kind := 6, unit := 5, info := 0x53 } }.respond (errorResponse 6 0)))

/-! ### BitChannel -/

/-- R140, R144, R155, R162, R378: when a `BC_*` command is refused, with its own opcode recorded. -/
def Obligations.ChannelMisuseIsRefused : Prop :=
  ∀ (s : State) (mode : Mode) (order : Order) (value : Word) (count : BitVec 6) (i : Instr),
    (s.sessionOpen = true ∧
        i ∈ [.bcInit mode order, .bcWriteBits value count, .bcReadBits count, .bcPeekBits count, .bcAlign, .bcFlush, .bcClose]) ∨
      (s.bc.opened = false ∧
        i ∈ [.bcWriteBits value count, .bcReadBits count, .bcPeekBits count, .bcAlign, .bcFlush, .bcClose]) ∨
      (s.bc.mode = .read ∧ i ∈ [.bcWriteBits value count, .bcFlush]) ∨
      (s.bc.mode = .write ∧ i ∈ [.bcReadBits count, .bcPeekBits count]) ∨
      (32 < count.toNat ∧ i ∈ [.bcWriteBits value count, .bcReadBits count, .bcPeekBits count]) ∨
      (s.bc.mode = .write ∧ s.bc.flushed = true ∧ i ∈ [.bcWriteBits value count, .bcAlign]) →
    exec i s = .next (s.refusedWith 1 (i.opcode.setWidth 32))

/-- R40, R141, R171, R231, R233: the state after the init command of units 1, 2 and 4, and that nothing else changes. -/
def Obligations.InitCommandsCreateTheirUnits : Prop :=
  ∀ s : State, s.sessionOpen = false →
    (∀ mode order, exec (.bcInit mode order) s = .next
      ({ s with bc := { mode := mode, order := order, opened := true, flushed := false, acc := 0, nbits := 0, total := 0,
                        nbytes := 0 } }.respond (okResponse 0 0))) ∧
    (∀ capacity : BitVec 17, 4096 ≤ capacity.toNat → capacity.toNat ≤ 65536 →
      exec (.swInit capacity) s = .next
        ({ s with sw := { s.sw with cap := capacity.toNat, cursor := 0 } }.respond (okResponse 0 0))) ∧
    (∀ level : BitVec 4, level.toNat ≤ 9 → ∃ heads : Mem (Option Nat),
      (∀ h, heads.get Config.freePos h = none) ∧
      exec (.mfInit level) s = .next
        ({ s with
            mf := { s.mf with
              level := level.toNat, opened := true, last := false
              maxChain := [0, 4, 8, 16, 16, 32, 128, 256, 1024, 4096].getD level.toNat 0
              lazyThr := [0, 0, 0, 0, 4, 16, 16, 32, 128, 258].getD level.toNat 0
              pos := 0, mfh := heads, input := [], tok := [] }
            sw := { s.sw with cap := 32768, cursor := 0 } }.respond (okResponse 0 0)))

/-- R144, R145, R65 to R67: the low `count` bits join the pending bits; every full byte goes to the sink, in the order
the channel's bit order says. -/
def Obligations.BcWriteBitsResult : Prop :=
  ∀ (value : Word) (count : BitVec 6) (s : State), s.ChannelReady .write → s.bc.flushed = false → count.toNat ≤ 32 →
    s.bc.Room 32 → s.countersFit = true →
    let n := s.bc.nbits + count.toNat
    let bits := s.bc.acc.toNat + value.toNat % 2 ^ count.toNat * 2 ^ s.bc.nbits
    exec (.bcWriteBits value count) s = .next
      ({ s with
          bc := { s.bc with
            acc := BitVec.ofNat 64 (bits / 2 ^ (8 * (n / 8))), nbits := n % 8, total := s.bc.total + count.toNat
            nbytes := s.bc.nbytes + n / 8 }
          port := { s.port with sink := s.port.sink ++ streamBytes s.bc.order (n / 8) bits } }.respond (okResponse 0 0))

/-- R147, R148, R153: a read and a peek of bits that the source can supply: the next `count` stream bits, as few bytes
taken as they need; only the read consumes them. -/
def Obligations.BcReadAndPeekResult : Prop :=
  ∀ (count : BitVec 6) (s : State), s.ChannelReady .read → count.toNat ≤ 32 →
    count.toNat ≤ s.bc.nbits + 8 * s.port.src.length → s.bc.Room 40 → s.countersFit = true →
    let k := s.bc.fetches count.toNat
    let bits := s.bc.acc.toNat + 2 ^ s.bc.nbits * streamValue s.bc.order (s.port.src.take k)
    exec (.bcReadBits count) s = .next
        ({ s with
            bc := { s.bc with
              acc := BitVec.ofNat 64 (bits / 2 ^ count.toNat), nbits := s.bc.nbits + 8 * k - count.toNat
              total := s.bc.total + count.toNat, nbytes := s.bc.nbytes + k }
            port := { s.port with src := s.port.src.drop k } }.respond (okValue (s.upcoming % 2 ^ count.toNat))) ∧
      exec (.bcPeekBits count) s = .next
        ({ s with
            bc := { s.bc with acc := BitVec.ofNat 64 bits, nbits := s.bc.nbits + 8 * k, nbytes := s.bc.nbytes + k }
            port := { s.port with src := s.port.src.drop k } }.respond (okValue (s.upcoming % 2 ^ count.toNat)))

/-- R149, R373: a read or peek of more bits than the source can supply faults with the number of missing bits and
consumes nothing; the bytes taken stay pending. -/
def Obligations.ShortReadConsumesNothing : Prop :=
  ∀ (count : BitVec 6) (s : State) (i : Instr), i = .bcReadBits count ∨ i = .bcPeekBits count →
    s.ChannelReady .read → count.toNat ≤ 32 →
    s.bc.nbits + 8 * s.port.src.length < count.toNat → s.bc.Room 40 → s.countersFit = true →
    let n := s.bc.nbits + 8 * s.port.src.length
    exec i s = .next
      ({ s with
          err := { kind := 1, unit := 1, info := BitVec.ofNat 32 (count.toNat - n) }
          bc := { s.bc with acc := BitVec.ofNat 64 s.upcoming, nbits := n, nbytes := s.bc.nbytes + s.port.src.length }
          port := { s.port with src := [] } }.respond (errorResponse 1 (BitVec.ofNat 32 (count.toNat - n))))

/-- R142: "`count = 0` is legal for `BC_WRITE_BITS`, `BC_READ_BITS` and `BC_PEEK_BITS`: nothing is written or read, no
byte is taken or put, `bc.total` is unchanged, the result is 0". -/
def Obligations.ZeroCountDoesNothing : Prop :=
  ∀ (value : Word) (s : State), s.countersFit = true →
    (s.ChannelReady .write → s.bc.flushed = false →
      exec (.bcWriteBits value 0) s = .next (s.respond (okResponse 0 0))) ∧
    (s.ChannelReady .read →
      exec (.bcReadBits 0) s = .next (s.respond (okResponse 0 0)) ∧
        exec (.bcPeekBits 0) s = .next (s.respond (okResponse 0 0)))

/-- R72, R155 to R157: `BC_ALIGN` pads the rest of the byte with zeros when writing and drops it when reading; both
count into `bc.total`, and the answer is their number. -/
def Obligations.BcAlignResult : Prop :=
  ∀ s : State, s.bc.Room 8 → s.countersFit = true →
    let k := (8 - s.bc.total % 8) % 8
    let m := (s.bc.nbits + 7) / 8
    (s.ChannelReady .write → s.bc.flushed = false →
      exec .bcAlign s = .next
        ({ s with
            bc := { s.bc with acc := 0, nbits := 0, total := s.bc.total + k, nbytes := s.bc.nbytes + m }
            port := { s.port with sink := s.port.sink ++ streamBytes s.bc.order m s.bc.acc.toNat } }.respond (okValue k))) ∧
      (s.ChannelReady .read →
        exec .bcAlign s = .next
          ({ s with bc := { s.bc with acc := s.bc.acc >>> k, nbits := s.bc.nbits - k, total := s.bc.total + k } }.respond
            (okValue k)))

/-- R160, R161, R163: `BC_FLUSH` puts the last partial byte, padded with zeros, and commits; `BC_CLOSE` does the same for
a writing channel that was not flushed, and closes. -/
def Obligations.BcFlushAndCloseResult : Prop :=
  ∀ s : State, s.bc.Room 8 → s.countersFit = true →
    let k := (8 - s.bc.total % 8) % 8
    let m := (s.bc.nbits + 7) / 8
    let sink := s.port.sink ++ streamBytes s.bc.order m s.bc.acc.toNat
    let port := { s.port with sink := sink, committed := sink.length, flushes := s.port.flushes + 1 }
    let bc := { s.bc with flushed := true, acc := 0, nbits := 0, total := s.bc.total + k, nbytes := s.bc.nbytes + m }
    (s.ChannelReady .write →
      exec .bcFlush s = .next ({ s with bc := bc, port := port }.respond (okValue k)) ∧
      (s.bc.flushed = false →
        exec .bcClose s = .next ({ s with bc := { bc with opened := false }, port := port }.respond (okResponse 0 0))) ∧
      (s.bc.flushed = true →
        exec .bcClose s = .next ({ s with bc := { s.bc with opened := false } }.respond (okResponse 0 0)))) ∧
    (s.ChannelReady .read →
      exec .bcClose s = .next ({ s with bc := { s.bc with opened := false } }.respond (okResponse 0 0)))

/-- R150: fields read in turn are consecutive slices of one number, the stream bits from the first field on. -/
def Obligations.RegroupingLaw : Prop :=
  ∀ (counts : List (BitVec 6)) (s : State), s.ChannelReady .read → (∀ c ∈ counts, c.toNat ≤ 32) →
    (counts.map BitVec.toNat).sum ≤ s.bc.nbits + 8 * s.port.src.length →
    s.bc.Room ((counts.map BitVec.toNat).sum + 40) → s.countersFit = true →
    ∃ t, execAll (counts.map .bcReadBits) s = .next t ∧
      t.port.responses = s.port.responses ++ (splitFields (counts.map BitVec.toNat) s.upcoming).map okValue ∧
      t.bc.total = s.bc.total + (counts.map BitVec.toNat).sum ∧
      t.upcoming = s.upcoming / 2 ^ (counts.map BitVec.toNat).sum

/-- R152, the symmetry law: what a channel of an order writes and flushes, a channel of the same order reads back, and
the rest of the last byte reads as zero. -/
def Obligations.SymmetryLaw : Prop :=
  ∀ (order : Order) (fields : List (Word × BitVec 6)) (s : State), s.sessionOpen = false → s.countersFit = true →
    (∀ f ∈ fields, f.2.toNat ≤ 32) → (fields.map fun f => f.2.toNat).sum < 2 ^ 63 →
    let total := (fields.map fun f => f.2.toNat).sum
    ∃ (t : State) (bytes : List Byte),
      execAll (.bcInit .write order :: fields.map (fun f => .bcWriteBits f.1 f.2) ++ [.bcFlush]) s = .next t ∧
      t.port.sink = s.port.sink ++ bytes ∧ t.port.committed = t.port.sink.length ∧
      ∀ (s2 : State) (rest : List Byte), s2.sessionOpen = false → s2.countersFit = true → s2.port.src = bytes ++ rest →
        ∃ t2, execAll (.bcInit .read order :: fields.map (fun f => .bcReadBits f.2) ++
            [.bcReadBits (BitVec.ofNat 6 ((8 - total % 8) % 8))]) s2 = .next t2 ∧
          t2.port.responses = s2.port.responses ++
            [okValue 0] ++ fields.map (fun f => okValue (f.1.toNat % 2 ^ f.2.toNat)) ++ [okValue 0] ∧
          t2.port.src = rest

/-- R67, R146: a writing channel in MSB-first order puts the bytes of an LSB-first one, each bit-reversed; "the
accumulator, the counters and the place of a value's bits in stream order are the same". -/
def Obligations.MsbFirstReversesBytes : Prop :=
  ∀ (commands : List Instr) (s t : State),
    (∀ i ∈ commands, (∃ v c, i = .bcWriteBits v c) ∨ i = .bcAlign ∨ i = .bcFlush ∨ i = .bcClose) →
    s.bc.mode = .write → s.bc.order = .lsbFirst → execAll commands s = .next t →
    ∃ (bytes : List Byte) (u : State), execAll commands { s with bc := { s.bc with order := .msbFirst } } = .next u ∧
      t.port.sink = s.port.sink ++ bytes ∧ u.port.sink = s.port.sink ++ bytes.map BitVec.reverse ∧
      u.bc = { t.bc with order := .msbFirst } ∧ u.port.responses = t.port.responses

/-! ### SlidingWindow -/

/-- R172, R30: `SW_PUSH` writes one cell, at the cursor modulo the capacity; every other cell reads as before; the new
byte is at offset 1 and every byte that stays in the history one further back. -/
def Obligations.SwPushResult : Prop :=
  ∀ (byte : Byte) (s : State), s.WindowReady → s.sw.win.wf = true → s.sw.cursor + 1 < 2 ^ 64 → s.countersFit = true →
    ∃ win : Mem Byte,
      exec (.swPush byte) s = .next
        ({ s with sw := { s.sw with win := win, cursor := s.sw.cursor + 1 } }.respond (okResponse 0 0)) ∧
      win.wf = true ∧ win.get Config.freeByte (s.sw.cursor % s.sw.cap) = byte ∧
      (∀ a, a ≠ s.sw.cursor % s.sw.cap → win.get Config.freeByte a = s.sw.win.get Config.freeByte a) ∧
      (∀ o, 1 ≤ o → o ≤ s.sw.hist → o < s.sw.cap →
        win.get Config.freeByte ((s.sw.cursor + 1 - (o + 1)) % s.sw.cap) =
          s.sw.win.get Config.freeByte ((s.sw.cursor - o) % s.sw.cap))

/-- R173: `SW_GET` answers the byte at the offset within the history, and `InvalidDistance` beyond it; nothing else
changes. -/
def Obligations.SwGetResult : Prop :=
  ∀ (offset : Word) (s : State), s.WindowReady →
    if 1 ≤ offset.toNat ∧ offset.toNat ≤ min s.sw.cursor s.sw.cap then
      exec (.swGet offset) s = .next (s.respond (okResponse
        ((s.sw.win.get Config.freeByte ((s.sw.cursor - offset.toNat) % s.sw.cap)).setWidth 32) 0))
    else
      exec (.swGet offset) s = .next
        ({ s with err := { kind := 3, unit := 2, info := offset } }.respond (errorResponse 3 offset))

/-- R175, R176: `SW_COPY` appends the periodic extension of the last `distance` bytes, for every length, beyond the
distance and beyond the capacity; the other cells and the rest of the history stay. A distance beyond the history faults
whatever the length and appends nothing. -/
def Obligations.SwCopyResult : Prop :=
  ∀ (distance length : Word) (s : State), s.WindowReady →
    (1 ≤ distance.toNat ∧ distance.toNat ≤ min s.sw.cursor s.sw.cap → s.sw.win.wf = true →
      s.sw.cursor + length.toNat < 2 ^ 64 → s.countersFit = true →
      ∃ win : Mem Byte,
        exec (.swCopy distance length) s = .next
          ({ s with sw := { s.sw with win := win, cursor := s.sw.cursor + length.toNat } }.respond (okResponse 0 0)) ∧
        win.wf = true ∧
        (∀ i, i < length.toNat → length.toNat ≤ i + s.sw.cap →
          win.get Config.freeByte ((s.sw.cursor + i) % s.sw.cap) =
            s.sw.win.get Config.freeByte ((s.sw.cursor - distance.toNat + i % distance.toNat) % s.sw.cap)) ∧
        (∀ a, (∀ i, i < length.toNat → a ≠ (s.sw.cursor + i) % s.sw.cap) →
          win.get Config.freeByte a = s.sw.win.get Config.freeByte a)) ∧
    (¬(1 ≤ distance.toNat ∧ distance.toNat ≤ min s.sw.cursor s.sw.cap) →
      exec (.swCopy distance length) s = .next
        ({ s with err := { kind := 3, unit := 2, info := distance } }.respond (errorResponse 3 distance)))

/-! ### HuffmanCoder -/

/-- R191: `HC_STAGE` writes one cell of `STG`; every other cell reads as before. An index above 319 is refused. -/
def Obligations.HcStageResult : Prop :=
  ∀ (index : BitVec 9) (value : Word) (s : State), s.sessionOpen = false →
    (index.toNat ≤ 319 → s.hc.stg.wf = true →
      ∃ stg : Mem Word,
        exec (.hcStage index value) s = .next ({ s with hc := { s.hc with stg := stg } }.respond (okResponse 0 0)) ∧
        stg.wf = true ∧ stg.get Config.freeWord index.toNat = value ∧
        ∀ a, a ≠ index.toNat → stg.get Config.freeWord a = s.hc.stg.get Config.freeWord a) ∧
    (319 < index.toNat → exec (.hcStage index value) s = .next (s.refusedWith 3 0x30))

/-- R193, R194, R206 to R209: construction from lengths. The staged lengths make a table exactly when none exceeds the
limit and the Kraft sum is one; the codes are the canonical ones; otherwise the slot is invalid and the recorded value
is the first symbol above the limit or the Kraft sum. -/
def Obligations.HcBuildLenResult : Prop :=
  ∀ (slot : BitVec 4) (n : BitVec 9) (limit : BitVec 4) (s : State), s.sessionOpen = false →
    Instr.buildable slot.toNat n.toNat limit.toNat = true →
    let lens := (List.range n.toNat).map fun a => (s.hc.stg.get Config.freeWord a).toNat
    let fails (info : Nat) : Prop := exec (.hcBuildLen slot n limit) s = .next
      ({ s.setTable slot.toNat { s.table slot.toNat with valid := false } with
          err := { kind := 5, unit := 3, info := BitVec.ofNat 32 info } }.respond (errorResponse 5 (BitVec.ofNat 32 info)))
    ((∀ l ∈ lens, l ≤ limit.toNat) → kraftSum limit.toNat lens = 2 ^ limit.toNat →
      exec (.hcBuildLen slot n limit) s = .next
        ((s.setTable slot.toNat
          { valid := true, n := n.toNat, limit := limit.toNat, maxlen := lens.foldl max 0, len := lens
            code := (List.range n.toNat).map (canonicalCode lens) }).respond (okValue (lens.foldl max 0)))) ∧
    ((∀ l ∈ lens, l ≤ limit.toNat) → kraftSum limit.toNat lens ≠ 2 ^ limit.toNat → fails (kraftSum limit.toNat lens)) ∧
    (∀ k, k < n.toNat → limit.toNat < lens.getD k 0 → (∀ j, j < k → lens.getD j 0 ≤ limit.toNat) → fails k)

/-- R196 to R204: construction from frequencies. With at least two and at most `2^limit` used symbols it makes a complete
table in which exactly the used symbols have codes; otherwise the slot is invalid and the number of used symbols is
recorded. -/
def Obligations.HcBuildFreqResult : Prop :=
  ∀ (slot : BitVec 4) (n : BitVec 9) (limit : BitVec 4) (s : State), s.sessionOpen = false →
    Instr.buildable slot.toNat n.toNat limit.toNat = true →
    let freq := (List.range n.toNat).map fun a => (s.hc.stg.get Config.freeWord a).toNat
    let u := (freq.filter fun f => decide (f ≠ 0)).length
    (2 ≤ u ∧ u ≤ 2 ^ limit.toNat →
      ∃ t : Table,
        exec (.hcBuildFreq slot n limit) s = .next ((s.setTable slot.toNat t).respond (okValue t.maxlen)) ∧
        t.valid = true ∧ t.n = n.toNat ∧ t.limit = limit.toNat ∧ t.len.length = n.toNat ∧
        t.maxlen = t.len.foldl max 0 ∧ t.Complete ∧
        (∀ k, k < n.toNat → (t.len.getD k 0 = 0 ↔ freq.getD k 0 = 0))) ∧
    (¬(2 ≤ u ∧ u ≤ 2 ^ limit.toNat) →
      exec (.hcBuildFreq slot n limit) s = .next
        ({ s.setTable slot.toNat { s.table slot.toNat with valid := false } with
            err := { kind := 5, unit := 3, info := BitVec.ofNat 32 u } }.respond (errorResponse 5 (BitVec.ofNat 32 u))))

/-- R197, R200: construction from frequencies is optimal. No code over the same used symbols, within the limit and the
Kraft inequality, has a smaller sum of frequency times length than the table `HC_BUILD_FREQ` makes. -/
def Obligations.HcBuildFreqIsOptimal : Prop :=
  ∀ (slot : BitVec 4) (n : BitVec 9) (limit : BitVec 4) (s : State) (other : List Nat), s.sessionOpen = false →
    Instr.buildable slot.toNat n.toNat limit.toNat = true →
    let freq := (List.range n.toNat).map fun a => (s.hc.stg.get Config.freeWord a).toNat
    let u := (freq.filter fun f => decide (f ≠ 0)).length
    2 ≤ u → u ≤ 2 ^ limit.toNat → other.length = n.toNat →
    (∀ k, k < n.toNat → (other.getD k 0 = 0 ↔ freq.getD k 0 = 0)) → (∀ l ∈ other, l ≤ limit.toNat) →
    kraftSum limit.toNat other ≤ 2 ^ limit.toNat →
    ∃ t : Table, exec (.hcBuildFreq slot n limit) s = .next ((s.setTable slot.toNat t).respond (okValue t.maxlen)) ∧
      (List.zipWith (· * ·) freq t.len).sum ≤ (List.zipWith (· * ·) freq other).sum

/-- R118, R212, R410: the constant tables, as `HC_ENCODE` shows them in every state without a session. -/
def Obligations.FixedTablesCodes : Prop :=
  ∀ (symbol : BitVec 9) (s : State), s.sessionOpen = false →
    let v := symbol.toNat
    (v < 288 → exec (.hcEncode 3 symbol) s = .next (s.respond
      (if v < 144 then okResponse (BitVec.ofNat 32 (48 + v)) 8
       else if v < 256 then okResponse (BitVec.ofNat 32 (400 + (v - 144))) 9
       else if v < 280 then okResponse (BitVec.ofNat 32 (v - 256)) 7
       else okResponse (BitVec.ofNat 32 (192 + (v - 280))) 8))) ∧
    (v < 32 → exec (.hcEncode 4 symbol) s = .next (s.respond (okResponse (BitVec.ofNat 32 v) 5)))

/-- R212, R220: `HC_ENCODE` answers the code and the length of the symbol and changes nothing; `HC_DISCARD` makes its
slot invalid and changes nothing else. -/
def Obligations.HcEncodeAndDiscardResult : Prop :=
  ∀ (slot : BitVec 4) (s : State), s.sessionOpen = false →
    (∀ symbol : BitVec 9, slot.toNat ≤ 4 → (s.table slot.toNat).valid = true → symbol.toNat < (s.table slot.toNat).n →
      exec (.hcEncode slot symbol) s = .next (s.respond (okResponse
        (BitVec.ofNat 32 ((s.table slot.toNat).code.getD symbol.toNat 0))
        (BitVec.ofNat 32 ((s.table slot.toNat).len.getD symbol.toNat 0))))) ∧
    (slot.toNat ≤ 2 → ∃ t : State,
      exec (.hcDiscard slot) s = .next (t.respond (okResponse 0 0)) ∧
      t = { s with hc := { t.hc with stg := s.hc.stg } } ∧
      t.table slot.toNat = { s.table slot.toNat with valid := false } ∧
      ∀ k, k ≠ slot.toNat → t.table k = s.table k)

/-- R104, R214: the bits of a symbol's code, first bit most significant, decode to the symbol, in any complete table and
whatever follows; exactly the code's bits are consumed, and as few bytes taken as they need. -/
def Obligations.HcDecodeInvertsEncode : Prop :=
  ∀ (slot : BitVec 4) (symbol : BitVec 9) (s : State), slot.toNat ≤ 4 → s.ChannelReady .read → s.bc.Room 40 →
    s.countersFit = true → (s.table slot.toNat).valid = true → (s.table slot.toNat).Wf →
    (s.table slot.toNat).Complete → symbol.toNat < (s.table slot.toNat).n →
    let l := (s.table slot.toNat).len.getD symbol.toNat 0
    l ≠ 0 → l ≤ s.bc.nbits + 8 * s.port.src.length →
    s.upcoming % 2 ^ l = codeField l ((s.table slot.toNat).code.getD symbol.toNat 0) →
    let k := s.bc.fetches l
    let bits := s.bc.acc.toNat + 2 ^ s.bc.nbits * streamValue s.bc.order (s.port.src.take k)
    exec (.hcDecode slot) s = .next
      ({ s with
          bc := { s.bc with
            acc := BitVec.ofNat 64 (bits / 2 ^ l), nbits := s.bc.nbits + 8 * k - l, total := s.bc.total + l
            nbytes := s.bc.nbytes + k }
          port := { s.port with src := s.port.src.drop k } }.respond
        (okResponse (symbol.setWidth 32) (BitVec.ofNat 32 l)))

/-- R215, R216: over a complete table `HC_DECODE` never answers `InvalidCode`; it faults only for want of bits, only when
fewer than the longest code's are left, and then consumes none. -/
def Obligations.HcDecodeNeverInvalidCode : Prop :=
  ∀ (slot : BitVec 4) (s : State), slot.toNat ≤ 4 → s.ChannelReady .read → s.bc.Room 40 → s.countersFit = true →
    (s.table slot.toNat).valid = true → (s.table slot.toNat).Wf → (s.table slot.toNat).Complete →
    ∃ t r, exec (.hcDecode slot) s = .next t ∧ t.port.responses = s.port.responses ++ [r] ∧
      (r.err = 0 ∨
        (r.err = 1 ∧ s.bc.nbits + 8 * s.port.src.length < (s.table slot.toNat).maxlen ∧ t.bc.total = s.bc.total ∧
          t.upcoming = s.upcoming))

/-- R217, R218: the look-up structure has an entry for every index, and the entry the next `maxlen` bits select is what
`HC_DECODE` answers. -/
def Obligations.LookupStructureAgrees : Prop :=
  ∀ (slot : BitVec 4) (s : State), slot.toNat ≤ 4 → s.ChannelReady .read → s.bc.Room 40 → s.countersFit = true →
    (s.table slot.toNat).valid = true → (s.table slot.toNat).Wf → (s.table slot.toNat).Complete →
    (s.table slot.toNat).maxlen ≤ s.bc.nbits + 8 * s.port.src.length →
    ∃ (symbol length : Nat) (t : State),
      (s.table slot.toNat).lut[s.upcoming % 2 ^ (s.table slot.toNat).maxlen]? = some (some (symbol, length)) ∧
      exec (.hcDecode slot) s = .next t ∧
      t.port.responses = s.port.responses ++ [okResponse (BitVec.ofNat 32 symbol) (BitVec.ofNat 32 length)] ∧
      t.bc.total = s.bc.total + length

/-! ### MatchFinder -/

/-- R235 to R238, R240, R244, R246, R248, R251: `MF_RUN` takes every byte at the source, appends tokens and never changes
one; the new tokens are in bounds and replay to exactly the input bytes they cover. After `MF_RUN 1`, and at level 0, all
input is covered; otherwise the run goes on while 261 bytes are ahead and no further: fewer are left uncovered, and every
token appended has 260 or more from its own position on (a step begins with 261, and the match of a lazy step stands one
byte later). The window receives the covered bytes, in order. Nothing outside the MatchFinder, the window and the source
changes. At every level but 0 a run of 4 to 259 equal bytes is one literal and one match at distance 1, as in R248 (a). -/
def Obligations.MfRunCoversInput : Prop :=
  (∀ (last : Bool) (s : State), s.sessionOpen = false → s.mf.opened = true → s.mf.last = false →
    s.mf.pos ≤ s.mf.input.length → s.countersFit = true → s.mf.input.length + s.port.src.length < 2 ^ 63 →
    s.sw.cursor < 2 ^ 63 → s.mf.tok.length + (s.mf.input.length + s.port.src.length - s.mf.pos) < 2 ^ 32 →
    ∃ (t : State) (tokens : List Token),
      exec (.mfRun last) s = .next (t.respond
        (okResponse (BitVec.ofNat 32 tokens.length) (BitVec.ofNat 32 s.port.src.length))) ∧
      t = { s with mf := t.mf, sw := t.sw, port := { s.port with src := [] } } ∧
      t.mf = { s.mf with
        mfh := t.mf.mfh, mfp := t.mf.mfp, pos := t.mf.pos, last := last, input := s.mf.input ++ s.port.src
        tok := s.mf.tok ++ tokens.map Token.word } ∧
      tokensInBounds s.mf.pos tokens = true ∧
      t.mf.pos = s.mf.pos + (tokens.map Token.covers).sum ∧ t.mf.pos ≤ t.mf.input.length ∧
      replay (t.mf.input.take s.mf.pos) tokens = t.mf.input.take t.mf.pos ∧
      (last = true ∨ s.mf.level = 0 → t.mf.pos = t.mf.input.length) ∧
      (last = false → s.mf.level ≠ 0 →
        t.mf.input.length < t.mf.pos + 261 ∧
          ∀ k, k < tokens.length →
            s.mf.pos + ((tokens.take k).map Token.covers).sum + 260 ≤ t.mf.input.length) ∧
      t.sw.cap = s.sw.cap ∧ t.sw.cursor = s.sw.cursor + (t.mf.pos - s.mf.pos) ∧
      t.sw = s.sw.pushAll ((t.mf.input.take t.mf.pos).drop s.mf.pos)) ∧
  (∀ (level : BitVec 4) (n : Nat) (b : Byte) (s : State), 1 ≤ level.toNat → level.toNat ≤ 9 → 4 ≤ n → n ≤ 259 →
    s.sessionOpen = false → s.countersFit = true → s.port.src = List.replicate n b →
    ∃ t, execAll [.mfInit level, .mfRun true] s = .next t ∧
      t.mf.tok = [(Token.lit b).word, (Token.copy (n - 1) 1).word])

/-- R236, R247: the tokens, and all of the MatchFinder and the window, do not depend on how the input was cut. -/
def Obligations.MfRunChunksDoNotMatter : Prop :=
  ∀ (s t1 t2 u : State) (part rest : List Byte), s.sessionOpen = false → s.mf.opened = true → s.mf.last = false →
    s.mf.pos ≤ s.mf.input.length →
    exec (.mfRun false) { s with port := { s.port with src := part } } = .next t1 →
    exec (.mfRun true) { t1 with port := { t1.port with src := rest } } = .next t2 →
    exec (.mfRun true) { s with port := { s.port with src := part ++ rest } } = .next u →
    t2.mf = u.mf ∧ t2.sw = u.sw

/-- R96, R250: `MF_TOKEN` answers the token word at the index and changes nothing; the word of a token in bounds has its
fields where the layout puts them and stands for that token. -/
def Obligations.MfTokenResult : Prop :=
  (∀ (index : Word) (s : State), s.sessionOpen = false → s.mf.opened = true → index.toNat < s.mf.tok.length →
      exec (.mfToken index) s = .next (s.respond (okResponse (s.mf.tok.getD index.toNat 0) 0))) ∧
    (∀ t : Token, tokenInBounds 32768 t = true → Token.ofWord t.word = t) ∧
    (∀ b : Byte, (Token.lit b).word = 0#24 ++ b) ∧
    (∀ (length : BitVec 9) (distance : BitVec 17),
      (Token.copy length.toNat distance.toNat).word = 1#1 ++ 0#5 ++ length ++ distance)

/-! ### BlockCodec: sessions -/

/-- R40, R343: `BK_INIT` in every phase, an open session included: the error registers cleared, `outq` empty, slots 0 to
2 invalid, the BlockCodec's registers zero but for direction, level and phase, the channel, the window and (encode) the
MatchFinder as their init commands leave them. -/
def Obligations.BkInitResult : Prop :=
  ∀ (direction : Direction) (level : BitVec 4) (s : State), (direction = .encode → level.toNat ≤ 9) →
    ∃ t : State,
      exec (.bkInit direction level) s = .next (t.respond (okResponse 0 0)) ∧ t.port = s.port ∧
      t.err = { kind := 0, unit := 0, info := 0 } ∧ t.outq = [] ∧ (∀ k, k < 3 → (t.table k).valid = false) ∧
      t.sw = { s.sw with cap := 32768, cursor := 0 } ∧
      match direction with
      | .decode =>
        t.bk = { State.reset.bk with phase := .header } ∧
        t.bc = { State.reset.bc with mode := .read, order := .lsbFirst, opened := true } ∧
        (s.sessionOpen = false → t.mf = s.mf)
      | .encode =>
        t.bk = { State.reset.bk with phase := .encRun, dir := .encode, level := level.toNat } ∧
        t.bc = { State.reset.bc with mode := .write, order := .lsbFirst, opened := true } ∧
        t.mf.level = level.toNat ∧ t.mf.opened = true ∧ t.mf.last = false ∧
        t.mf.maxChain = [0, 4, 8, 16, 16, 32, 128, 256, 1024, 4096].getD level.toNat 0 ∧
        t.mf.lazyThr = [0, 0, 0, 0, 4, 16, 16, 32, 128, 258].getD level.toNat 0 ∧ t.mf.pos = 0 ∧ t.mf.input = [] ∧
        t.mf.tok = [] ∧ ∀ h, t.mf.head h = none

/-- R345, R346, R348, R392: every `BK_FEED` of a decode session is answered, with exact counts: the bytes consumed are
those that left the source, the bytes produced those that reached the sink, at most `out_cap`. `NeedMoreInput` only with
the source empty and the end not marked, `HaveOutput` only with `out_cap` bytes delivered; `Finished` and a fault close
the session. `r0` is the count itself while fewer than 2^32 bytes are taken; that it is the low 32 bits of a larger count is
the model's choice (log entry 18, DESIGN CHOICE). -/
def Obligations.BkFeedDecodeContract : Prop :=
  ∀ (last : Bool) (outCap : Word) (s : State), s.Inv → s.bk.phase.decoding = true → s.countersFit = true →
    s.bc.total + 8 * s.port.src.length + 64 < 2 ^ 64 → s.bk.inTotal + s.port.src.length < 2 ^ 64 →
    s.bk.outTotal + outCap.toNat < 2 ^ 64 →
    ∃ (t : State) (r : Response) (consumed : Nat) (out : List Byte),
      exec (.bkFeed last outCap) s = .next t ∧ t.port.responses = s.port.responses ++ [r] ∧
      consumed ≤ s.port.src.length ∧ t.port.src = s.port.src.drop consumed ∧ t.port.sink = s.port.sink ++ out ∧
      out.length ≤ outCap.toNat ∧ r.r0 = BitVec.ofNat 32 consumed ∧ r.r1 = BitVec.ofNat 32 out.length ∧
      t.bc.nbytes = s.bc.nbytes + consumed ∧ t.bk.outTotal = s.bk.outTotal + out.length ∧
      t.bk.last = (s.bk.last || last) ∧
      ((r.err = 0 ∧ t.err = s.err ∧ t.bk.inTotal = s.bk.inTotal + consumed ∧
          ((r.aux = 1 ∧ consumed = s.port.src.length ∧ t.bk.last = false ∧ t.bk.phase.decoding = true) ∨
            (r.aux = 2 ∧ out.length = outCap.toNat ∧ t.bk.phase.decoding = true) ∨
            (r.aux = 3 ∧ t.bk.phase = .done))) ∨
        (1 ≤ r.err.toNat ∧ r.err.toNat ≤ 5 ∧ r.aux = 0 ∧ t.err.kind = r.err ∧ t.bk.phase = .fault))

/-- R281, R345, R347: every `BK_FEED` of an encode session is answered without an error. It takes all input, or none while
earlier output is not delivered; it delivers at most `out_cap` bytes; `HaveOutput` with output left, `NeedMoreInput` with
none and the end not marked, `Finished` once the flush is delivered, with `SinkFlush`. -/
def Obligations.BkFeedEncodeContract : Prop :=
  ∀ (last : Bool) (outCap : Word) (s : State), s.Inv → s.bk.phase.encoding = true → s.countersFit = true →
    s.bc.total < 2 ^ 62 → s.bk.blkStart < 2 ^ 62 → s.sw.cursor < 2 ^ 62 → s.bk.inTotal < 2 ^ 62 →
    s.bk.outTotal < 2 ^ 62 → s.outq.length < 2 ^ 62 → s.mf.input.length < 2 ^ 62 → s.port.src.length < 2 ^ 32 →
    s.mf.tok.length + (s.mf.input.length + s.port.src.length - s.mf.pos) < 2 ^ 32 →
    ∃ (t : State) (r : Response) (consumed : Nat) (out : List Byte),
      exec (.bkFeed last outCap) s = .next t ∧ t.port.responses = s.port.responses ++ [r] ∧
      r.err = 0 ∧ t.err = s.err ∧ r.r0 = BitVec.ofNat 32 consumed ∧ r.r1 = BitVec.ofNat 32 out.length ∧
      (consumed = if s.outq.length ≤ outCap.toNat ∧ s.bk.phase = .encRun then s.port.src.length else 0) ∧
      t.port.src = s.port.src.drop consumed ∧ t.port.sink = s.port.sink ++ out ∧ out.length ≤ outCap.toNat ∧
      t.bk.inTotal = s.bk.inTotal + consumed ∧ t.bk.outTotal = s.bk.outTotal + out.length ∧
      ((r.aux = 2 ∧ t.outq ≠ [] ∧ out.length = outCap.toNat ∧ t.bk.phase.encoding = true) ∨
        (r.aux = 3 ∧ t.outq = [] ∧ t.bk.phase = .done ∧ (last = true ∨ s.bk.phase = .encFinish) ∧
          t.port.committed = t.port.sink.length ∧ t.port.flushes = s.port.flushes + 1) ∨
        (r.aux = 1 ∧ t.outq = [] ∧ t.bk.phase = .encRun ∧ last = false))

/-! ### BlockCodec: the encoder -/

/-- R281, R285, R349: `BK_COMPRESS` of any input at any level completes without an error, takes the whole source, commits
the sink, and stays within the size bound of the stored form. -/
def Obligations.BkCompressCompletes : Prop :=
  ∀ (level : BitVec 4) (s : State), level.toNat ≤ 9 → s.port.src.length < 2 ^ 32 →
    ∃ (t : State) (out : List Byte),
      exec (.bkCompress level) s = .next t ∧
      t.port.responses = s.port.responses ++
        [okResponse (BitVec.ofNat 32 s.port.src.length) (BitVec.ofNat 32 out.length)] ∧
      t.port.src = [] ∧ t.port.sink = s.port.sink ++ out ∧ t.port.committed = t.port.sink.length ∧
      t.port.flushes = s.port.flushes + 1 ∧ t.bk.phase = .done ∧ t.outq = [] ∧
      t.bk.inTotal = s.port.src.length ∧ t.bk.outTotal = out.length ∧ t.bc.total = 8 * out.length ∧
      t.err = { kind := 0, unit := 0, info := 0 } ∧
      out.length ≤ s.port.src.length + 5 * (blocksFor s.port.src.length + s.port.src.length / 65535) +
        (blocksFor s.port.src.length + 3) / 4

/-- R261, R273, R279: at level 0 the output is the input in stored blocks of 16384 bytes, byte for byte; an empty input
gives one empty block. -/
def Obligations.BkCompressLevelZero : Prop :=
  ∀ s : State, s.port.src.length < 2 ^ 32 →
    ∃ t : State,
      exec (.bkCompress 0) s = .next t ∧ t.port.sink = s.port.sink ++ storedFile s.port.src ∧
      (storedFile s.port.src).length = s.port.src.length + 5 * blocksFor s.port.src.length ∧
      t.port.responses = s.port.responses ++
        [okResponse (BitVec.ofNat 32 s.port.src.length) (BitVec.ofNat 32 (storedFile s.port.src).length)]

/-- R282: the number of bits a block writes is the cost that was compared, for each kind, and the channel counts exactly
the bits of the operations it runs. -/
def Obligations.CostsAreExact : Prop :=
  (∀ (P : Config.Params) (c : Bc) (ops : List WOp), c.Wf → c.mode = .write →
      (runOps P c ops).1.total = c.total + opsBits c.total ops ∧
        (runOps P c ops).2.length = (c.nbits + opsBits c.total ops) / 8) ∧
    (∀ (tokens : List Token) (final : Bool) (t0 : Nat), opsBits t0 (emitFixed tokens final) = fixedCost tokens) ∧
    (∀ (P : Config.Params) (tokens : List Token) (plan : DynPlan) (final : Bool) (t0 : Nat),
      dynPlan P tokens = .ok plan → opsBits t0 (emitDynamic tokens plan final) = dynCost plan tokens) ∧
    (∀ (raw : List Byte) (final : Bool) (t0 : Nat), opsBits t0 (emitStored raw final) = storedCost t0 raw.length)

/-! ### BlockCodec: the decoder -/

/-- R300 to R327: what each micro-step of the decoder does once its bits are at hand, the kinds and recorded values of the
faults it raises included, and that `BK_FEED` and `BK_DECOMPRESS` do what a number of micro-steps does. The contents of a
construction's slot are those of HcBuildLenResult. In DYN_LENS the symbol is one of the 19 of the code-length alphabet
(R33, R312), the only ones slot 2 holds there in a run. What `bk.*` holds after a micro-step that raises is log entry 19
(DEDUCED). -/
def Obligations.DecoderMicroSteps : Prop :=
  (∀ s : State, s.Inv → (∀ k, k < 3 → (s.table k).valid = true → (s.table k).Complete) →
    let left := s.bc.nbits + 8 * s.port.src.length
    (s.bk.phase = .header → 3 ≤ left →
      let h := s.upcoming % 2 ^ 3
      let bk : Bk := { s.bk with final := h % 2 == 1, kind := BitVec.ofNat 2 (h / 2) }
      microStep params s = some
        (if h / 2 = 0 then
          .ok () { s.afterField (3 + (8 - (s.bc.total + 3) % 8) % 8) with bk := { bk with phase := .storedLen } }
        else if h / 2 = 1 then .ok () { s.afterField 3 with bk := { bk with phase := .symbol } }
        else if h / 2 = 2 then .ok () { s.afterField 3 with bk := { bk with phase := .dynHdr } }
        else .raise { kind := .invalidCode, unit := 5, info := 3 } { s.afterField 3 with bk := bk })) ∧
    (s.bk.phase = .storedLen → 32 ≤ left →
      let w := s.upcoming % 2 ^ 32
      microStep params s = some
        (if w / 2 ^ 16 + w % 2 ^ 16 = 2 ^ 16 - 1 then
          .ok () { s.afterField 32 with bk := { s.bk with storedRem := w % 2 ^ 16, phase := .storedCopy } }
        else .raise { kind := .invalidStoredLength, unit := 5, info := w } (s.afterField 32))) ∧
    (s.bk.phase = .storedCopy → s.bk.storedRem = 0 → microStep params s = some (.ok () s.afterBlock)) ∧
    (s.bk.phase = .storedCopy → s.bk.storedRem ≠ 0 → 8 ≤ left →
      let u := (s.afterField 8).afterByte (BitVec.ofNat 8 (s.upcoming % 2 ^ 8))
      microStep params s = some (.ok () { u with bk := { u.bk with storedRem := s.bk.storedRem - 1 } })) ∧
    (s.bk.phase = .dynHdr → 14 ≤ left →
      let w := s.upcoming % 2 ^ 14
      let u : State := { s.afterField 14 with
        bk := { s.bk with nlit := w % 32 + 257, ndist := w / 32 % 32 + 1, ncl := w / 1024 + 4 } }
      microStep params s = some
        (if 30 ≤ w % 32 ∨ 30 ≤ w / 32 % 32 then .raise { kind := .tableConstructionFailed, unit := 5, info := w } u
        else .ok () { u.stage 0 (List.replicate 19 0) with bk := { u.bk with idx := 0, phase := .dynCl } })) ∧
    (s.bk.phase = .dynCl → 3 ≤ left →
      let cell := [16, 17, 18, 0, 8, 7, 9, 6, 10, 5, 11, 4, 12, 3, 13, 2, 14, 1, 15].getD s.bk.idx 0
      let u := { (s.afterField 3).stage cell [s.upcoming % 2 ^ 3] with bk := { s.bk with idx := s.bk.idx + 1 } }
      microStep params s = some
        (if s.bk.idx + 1 < s.bk.ncl then .ok () u
        else
          match buildLen 7 (u.stagedArray 19) with
          | .table t => .ok () { u.setTable 2 t with bk := { u.bk with idx := 0, phase := .dynLens } }
          | .failed info => .raise { kind := .tableConstructionFailed, unit := 3, info := info }
              (u.setTable 2 { u.hc.slot2 with valid := false }))) ∧
    (∀ symbol, symbol < 19 → s.bk.phase = .dynLens → s.bk.idx < s.bk.nlit + s.bk.ndist →
      let extra := if symbol < 16 then 0 else if symbol = 16 then 2 else if symbol = 17 then 3 else 7
      s.comesNext 2 symbol extra →
      let l := (s.table 2).len.getD symbol 0
      let e := s.upcoming / 2 ^ l % 2 ^ extra
      let run := if symbol < 16 then 1 else if symbol = 18 then 11 + e else 3 + e
      let value := if symbol < 16 then symbol else if symbol = 16 then s.staged (s.bk.idx - 1) else 0
      microStep params s = some
        (if symbol = 16 ∧ s.bk.idx = 0 ∨ s.bk.nlit + s.bk.ndist < s.bk.idx + run then
          .raise { kind := .invalidCode, unit := 5, info := symbol } (s.afterFetch (l + extra))
        else .ok () { (s.afterField (l + extra)).stage s.bk.idx (List.replicate run value) with
          bk := { s.bk with idx := s.bk.idx + run } })) ∧
    (s.bk.phase = .dynLens → s.bk.idx = s.bk.nlit + s.bk.ndist →
      microStep params s = some
        (match buildLen 15 (s.stagedArray s.bk.nlit) with
        | .failed info => .raise { kind := .tableConstructionFailed, unit := 3, info := info }
            (s.setTable 0 { s.hc.slot0 with valid := false })
        | .table t0 =>
          let u := (s.setTable 0 t0).stage 0 ((List.range s.bk.ndist).map fun i => s.staged (s.bk.nlit + i))
          match buildLen 15 (u.stagedArray s.bk.ndist) with
          | .failed info => .raise { kind := .tableConstructionFailed, unit := 3, info := info }
              (u.setTable 1 { u.hc.slot1 with valid := false })
          | .table t1 => .ok () { (u.setTable 1 t1).setTable 2 { u.hc.slot2 with valid := false } with
              bk := { s.bk with phase := .symbol } })) ∧
    (∀ symbol, s.bk.phase = .symbol → s.comesNext (if s.bk.kind = 1 then 3 else 0) symbol 0 →
      let u := s.afterField ((s.table (if s.bk.kind = 1 then 3 else 0)).len.getD symbol 0)
      microStep params s = some
        (if symbol < 256 then .ok () (u.afterByte (BitVec.ofNat 8 symbol))
        else if symbol = 256 then .ok () u.afterBlock
        else if symbol ≤ 285 then .ok () { u with bk := { u.bk with lenSym := symbol, phase := .lenExtra } }
        else .raise { kind := .invalidCode, unit := 5, info := symbol } u)) ∧
    (s.bk.phase = .lenExtra →
      let bucket := lengthBucket (s.bk.lenSym - 257)
      bucket.2 ≤ left →
      microStep params s = some (.ok () { s.afterField bucket.2 with
        bk := { s.bk with length := bucket.1 + s.upcoming % 2 ^ bucket.2, phase := .distSym } })) ∧
    (∀ symbol, s.bk.phase = .distSym → s.comesNext (if s.bk.kind = 1 then 4 else 1) symbol 0 →
      let u := s.afterField ((s.table (if s.bk.kind = 1 then 4 else 1)).len.getD symbol 0)
      microStep params s = some
        (if symbol < 30 then .ok () { u with bk := { u.bk with distSym := symbol, phase := .distExtra } }
        else .raise { kind := .invalidCode, unit := 5, info := symbol } u)) ∧
    (s.bk.phase = .distExtra →
      let bucket := distanceBucket s.bk.distSym
      let d := bucket.1 + s.upcoming % 2 ^ bucket.2
      bucket.2 ≤ left →
      microStep params s = some
        (if min s.sw.cursor 32768 < d then
          .raise { kind := .invalidDistance, unit := 5, info := d } (s.afterField bucket.2)
        else .ok () { s.afterField bucket.2 with
          bk := { s.bk with dist := d, copyRem := s.bk.length, phase := .copy } })) ∧
    (s.bk.phase = .copy →
      let u := s.afterByte (s.sw.win.get Config.freeByte ((s.sw.cursor - s.bk.dist) % 32768))
      microStep params s = some (.ok ()
        (if s.bk.copyRem = 0 then { s with bk := { s.bk with phase := .symbol } }
        else { u with bk := { u.bk with copyRem := s.bk.copyRem - 1 } })))) ∧
  (∀ (i : Instr) (s s0 t : State) (r : Response), s.Inv →
    ((∃ last cap, i = .bkFeed last cap ∧ s.bk.phase.decoding = true ∧
        s0 = { s with bk := { s.bk with last := s.bk.last || last } }) ∨
      (i = .bkDecompress ∧ ∃ s1, exec (.bkInit .decode 0) s = .next s1 ∧
        s0 = { s1 with bk := { s1.bk with last := true } })) →
    exec i s = .next t → t.port.responses = s.port.responses ++ [r] →
    ∃ (n : Nat) (u : State), stepsFrom params n s0 = some u ∧ t.port.sink = u.port.sink ∧ t.sw = u.sw ∧
      (r.err = 0 → t.bc.total = u.bc.total ∧ t.bk.phase = u.bk.phase) ∧
      (r.err ≠ 0 → ∃ (f : Raised) (v : State), microStep params u = some (.raise f v) ∧ t.bc = v.bc ∧
        t.port.src = v.port.src ∧
        t.err = { kind := f.kind.code, unit := BitVec.ofNat 8 f.unit, info := BitVec.ofNat 32 f.info }))

/-- R301, R344, R392: a micro-step that cannot get its bits takes what the source has and leaves everything else as it
was; it holds while the end is not marked and faults once it is. -/
def Obligations.HeldStepConsumesNothing : Prop :=
  ∀ (P : Config.Params) (s u : State),
    (microStep P s = some (.hold u) ∨
      ∃ f, f.kind = .unexpectedEndOfInput ∧ microStep P s = some (.raise f u)) →
    u = { s with bc := u.bc, port := { s.port with src := [] } } ∧ u.bc.total = s.bc.total ∧
      u.bc.nbytes = s.bc.nbytes + s.port.src.length ∧ u.bc.nbits = s.bc.nbits + 8 * s.port.src.length ∧
      (s.bc.Wf → u.bc.acc = BitVec.ofNat 64 s.upcoming) ∧
      (microStep P s = some (.hold u) ↔ s.bk.last = false)

/-- R334, R350: `BK_DECOMPRESS` of any source is answered: it finishes, or it faults with one of the five error kinds;
the counts are the bytes taken from the source and the bytes put to the sink. -/
def Obligations.BkDecompressContract : Prop :=
  ∀ s : State, s.countersFit = true → s.port.src.length < 2 ^ 48 →
    ∃ (t : State) (r : Response) (taken : Nat) (out : List Byte),
      exec .bkDecompress s = .next t ∧ t.port.responses = s.port.responses ++ [r] ∧ r.aux = 0 ∧
      taken ≤ s.port.src.length ∧ t.port.src = s.port.src.drop taken ∧ t.port.sink = s.port.sink ++ out ∧
      r.r0 = BitVec.ofNat 32 taken ∧ r.r1 = BitVec.ofNat 32 out.length ∧ t.bk.inTotal = taken ∧
      t.bk.outTotal = out.length ∧ t.bc.nbytes = taken ∧
      ((r.err = 0 ∧ t.bk.phase = .done ∧ taken = (t.bc.total + 7) / 8) ∨
        (1 ≤ r.err.toNat ∧ r.err.toNat ≤ 5 ∧ t.bk.phase = .fault ∧ t.err.kind = r.err))

/-- R305, R308, R309, R331, R345, R350: stored blocks, streaming and one-shot. A `BK_FEED` inside a stored block copies raw
bytes from the source to the sink and the window, as many as `out_cap` allows or, with too few at the source, all of
them. `BK_DECOMPRESS` of a stream of stored blocks delivers their raw bytes and leaves what follows the final block at the
source. -/
def Obligations.StoredBlocksAreCopied : Prop :=
  (∀ (last : Bool) (outCap : Word) (s : State), s.Inv → s.bk.phase = .storedCopy → s.bc.nbits = 0 →
    s.countersFit = true → s.bc.total + 8 * s.port.src.length + 64 < 2 ^ 64 →
    s.bk.inTotal + s.port.src.length < 2 ^ 64 → s.bk.outTotal + outCap.toNat < 2 ^ 64 →
    let answers (n : Nat) (aux : BitVec 8) : Prop :=
      exec (.bkFeed last outCap) s = .next
        ({ s with
            bc := { s.bc with total := s.bc.total + 8 * n, nbytes := s.bc.nbytes + n }
            sw := { s.sw with win := (s.sw.pushAll (s.port.src.take n)).win, cursor := s.sw.cursor + n }
            bk := { s.bk with
              storedRem := s.bk.storedRem - n, last := s.bk.last || last, outTotal := s.bk.outTotal + n
              inTotal := s.bk.inTotal + n }
            port := { s.port with src := s.port.src.drop n, sink := s.port.sink ++ s.port.src.take n } }.respond
          { err := 0, aux := aux, r0 := BitVec.ofNat 32 n, r1 := BitVec.ofNat 32 n })
    (outCap.toNat ≤ s.bk.storedRem → outCap.toNat ≤ s.port.src.length → answers outCap.toNat 2) ∧
    (s.port.src.length < s.bk.storedRem → s.port.src.length < outCap.toNat → s.bk.last = false → last = false →
      answers s.port.src.length 1)) ∧
  (∀ (s : State) (bytes rest : List Byte), s.countersFit = true → bytes.length < 2 ^ 32 →
    s.port.src = storedFile bytes ++ rest →
    ∃ t : State,
      exec .bkDecompress s = .next t ∧ t.port.sink = s.port.sink ++ bytes ∧ t.port.src = rest ∧ t.bk.phase = .done ∧
      t.port.responses = s.port.responses ++
        [okResponse (BitVec.ofNat 32 (storedFile bytes).length) (BitVec.ofNat 32 bytes.length)])

/-- R351: "For any way of cutting the input into chunks and any sequence of `out_cap` values that lets the session
finish", a session delivers the bytes of the one-shot command on the whole input, ends in the same phase and leaves the
same error registers; and (R20, R204, R247, R413) a one-shot command depends on the source alone: two machines that differ
in anything else, the unspecified contents of their memories included, append the same bytes and answer the same. The
invariant and the counters rule out states no run reaches; that every step keeps both is stated by StepKeepsInvariant
and RegistersKeepTheirWidths. -/
def Obligations.StreamingEqualsOneShot : Prop :=
  (∀ (direction : Direction) (level : BitVec 4) (feeds : List Feed) (s t s2 : State), level.toNat ≤ 9 →
    s.Inv → s2.Inv → s.countersFit = true → s2.countersFit = true →
    endMarkedOnce feeds = true → (s.port.src ++ fedBytes feeds).length < 2 ^ 32 →
    (match exec (.bkInit direction level) s with
      | .next s1 => feedAll feeds s1
      | stop => stop) = .next t →
    t.sessionOpen = false → s2.port.src = s.port.src ++ fedBytes feeds →
    ∃ (u : State) (out : List Byte), exec (oneShot direction level) s2 = .next u ∧ u.bk.phase = t.bk.phase ∧
      u.err = t.err ∧ t.port.sink = s.port.sink ++ out ∧ u.port.sink = s2.port.sink ++ out) ∧
  (∀ (i : Instr) (s s' t t' : State), (∃ level, i = .bkCompress level) ∨ i = .bkDecompress → s.Inv → s'.Inv →
    s.port.src = s'.port.src → exec i s = .next t → exec i s' = .next t' →
    t.port.src = t'.port.src ∧
      ∃ (out : List Byte) (r : Response),
        t.port.sink = s.port.sink ++ out ∧ t'.port.sink = s'.port.sink ++ out ∧
        t.port.responses = s.port.responses ++ [r] ∧ t'.port.responses = s'.port.responses ++ [r])

/-- R283, the round trip: what `BK_COMPRESS` makes of an input at any level, `BK_DECOMPRESS` turns back into that input,
and nothing behind it is taken. -/
def Obligations.DecompressInvertsCompress : Prop :=
  ∀ (level : BitVec 4) (s t : State) (out rest : List Byte) (s2 : State), level.toNat ≤ 9 →
    s.port.src.length < 2 ^ 32 → exec (.bkCompress level) s = .next t → t.port.sink = s.port.sink ++ out →
    s2.Inv → s2.countersFit = true → s2.port.src = out ++ rest →
    ∃ t2, exec .bkDecompress s2 = .next t2 ∧ t2.port.sink = s2.port.sink ++ s.port.src ∧ t2.port.src = rest ∧
      t2.bk.phase = .done

end ObligationStatements
end

