-- ==== Sys2Proof/Laws/Channel.lean ====
section
/-! SUPPORT. What the BitChannel's helper functions can do: their counters, and what they leave alone (R145, R148, R165). -/

namespace Sys2Proof.Machine

/-! ### Writing -/

/-- Putting `k` bytes moves `8 * k` bits out of the accumulator and counts `k` bytes; nothing else of the channel
changes. -/
theorem Bc.emit_spec : ∀ (k : Nat) (c : Bc),
    (Bc.emit k c).2.length = k ∧ (Bc.emit k c).1.nbits = c.nbits - 8 * k ∧ (Bc.emit k c).1.nbytes = c.nbytes + k ∧
      (Bc.emit k c).1.total = c.total ∧ (Bc.emit k c).1.mode = c.mode ∧ (Bc.emit k c).1.order = c.order ∧
      (Bc.emit k c).1.opened = c.opened ∧ (Bc.emit k c).1.flushed = c.flushed
  | 0, c => by simp [Bc.emit]
  | k + 1, c => by
    obtain ⟨h1, h2, h3, h4, h5, h6, h7, h8⟩ :=
      Bc.emit_spec k { c with acc := c.acc >>> 8, nbits := c.nbits - 8, nbytes := c.nbytes + 1 }
    simp only at h1 h2 h3 h4 h5 h6 h7 h8
    simp only [Bc.emit, List.length_cons]
    exact ⟨by omega, by omega, by omega, h4, h5, h6, h7, h8⟩

/-- A write counts its bits into `bc.total`, puts every full byte and keeps fewer than 8 bits pending (R145). -/
theorem Bc.write_spec (P : Config.Params) (c : Bc) (v : Word) (n : Nat) :
    (c.write P v n).2.length = (c.nbits + n) / 8 ∧ (c.write P v n).1.nbits = (c.nbits + n) % 8 ∧
      (c.write P v n).1.nbytes = c.nbytes + (c.nbits + n) / 8 ∧ (c.write P v n).1.total = c.total + n ∧
      (c.write P v n).1.mode = c.mode ∧ (c.write P v n).1.order = c.order ∧ (c.write P v n).1.opened = c.opened ∧
      (c.write P v n).1.flushed = c.flushed := by
  obtain ⟨h1, h2, h3, h4, h5, h6, h7, h8⟩ := Bc.emit_spec ((c.nbits + n) / 8) (c.accept P v n)
  refine ⟨h1, ?_, h3, h4, h5, h6, h7, h8⟩
  have : (c.accept P v n).nbits = c.nbits + n := rfl
  show (Bc.emit ((c.nbits + n) / 8) (c.accept P v n)).1.nbits = (c.nbits + n) % 8
  omega

/-- Alignment of a writing channel leaves no pending bit (R156); such a channel holds fewer than 8 (R25). -/
theorem Bc.alignWrite_nbits (P : Config.Params) (c : Bc) (hc : c.nbits < 8) : (c.alignWrite P).1.nbits = 0 := by
  have h := (Bc.write_spec P c 0 c.padding).2.1
  have hp : c.padding = (8 - c.nbits) % 8 := rfl
  unfold Bc.alignWrite
  rw [h, hp]
  omega

/-! ### Reading -/

/-- The refill takes a prefix of the source, byte by byte, and stops at `n` pending bits or an empty source (R148). -/
theorem Bc.need_spec (n : Nat) : ∀ (src : List Byte) (c : Bc),
    ∃ k, k ≤ src.length ∧ (Bc.need n c src).2 = src.drop k ∧ (Bc.need n c src).1.nbits = c.nbits + 8 * k ∧
      (Bc.need n c src).1.nbytes = c.nbytes + k ∧ (Bc.need n c src).1.total = c.total ∧
      (Bc.need n c src).1.mode = c.mode ∧ (Bc.need n c src).1.order = c.order ∧
      (Bc.need n c src).1.opened = c.opened ∧ (Bc.need n c src).1.flushed = c.flushed ∧
      (n ≤ (Bc.need n c src).1.nbits ∨ k = src.length) ∧
      ((Bc.need n c src).1.nbits ≤ c.nbits ∨ (Bc.need n c src).1.nbits ≤ n + 7)
  | [], c => ⟨0, by simp [Bc.need]⟩
  | b :: rest, c => by
    by_cases h : c.nbits < n
    · obtain ⟨k, h1, h2, h3, h4, h5, h6, h7, h8, h9, h10, h11⟩ := Bc.need_spec n rest (c.takeByte b)
      simp only [Bc.takeByte] at h3 h4 h5 h6 h7 h8 h9 h10 h11
      refine ⟨k + 1, by simpa using h1, ?_⟩
      simp only [Bc.need, if_pos h, List.drop_succ_cons, List.length_cons]
      simp only [Bc.takeByte] at h2 ⊢
      exact ⟨h2, by omega, by omega, h5, h6, h7, h8, h9, by omega, by omega⟩
    · exact ⟨0, by simp [Bc.need, h]; omega⟩

/-- The refill of a channel that holds enough takes nothing (R148). -/
theorem Bc.need_enough {n : Nat} {c : Bc} (src : List Byte) (h : n ≤ c.nbits) : Bc.need n c src = (c, src) := by
  cases src with
  | nil => rfl
  | cons b rest => simp only [Bc.need]; rw [if_neg (by omega)]

end Sys2Proof.Machine
end

