-- ==== Sys2Proof/Laws/State.lean ====
section
/-! SUPPORT. One lemma per field of State per update of State, true by unfolding the update once, so that no later proof
unfolds a record update. -/

namespace Sys2Proof.Machine

/-! `setScript` -/

@[simp] theorem State.setScript_err (s : State) (l : List HostAction) : (s.setScript l).err = s.err := rfl
@[simp] theorem State.setScript_bc (s : State) (l : List HostAction) : (s.setScript l).bc = s.bc := rfl
@[simp] theorem State.setScript_sw (s : State) (l : List HostAction) : (s.setScript l).sw = s.sw := rfl
@[simp] theorem State.setScript_hc (s : State) (l : List HostAction) : (s.setScript l).hc = s.hc := rfl
@[simp] theorem State.setScript_mf (s : State) (l : List HostAction) : (s.setScript l).mf = s.mf := rfl
@[simp] theorem State.setScript_bk (s : State) (l : List HostAction) : (s.setScript l).bk = s.bk := rfl
@[simp] theorem State.setScript_outq (s : State) (l : List HostAction) : (s.setScript l).outq = s.outq := rfl
@[simp] theorem State.setScript_port (s : State) (l : List HostAction) : (s.setScript l).port = { s.port with script := l } := rfl
@[simp] theorem State.setScript_gen (s : State) (l : List HostAction) : (s.setScript l).gen = s.gen := rfl

/-! `setSrc` -/

@[simp] theorem State.setSrc_err (s : State) (l : List Byte) : (s.setSrc l).err = s.err := rfl
@[simp] theorem State.setSrc_bc (s : State) (l : List Byte) : (s.setSrc l).bc = s.bc := rfl
@[simp] theorem State.setSrc_sw (s : State) (l : List Byte) : (s.setSrc l).sw = s.sw := rfl
@[simp] theorem State.setSrc_hc (s : State) (l : List Byte) : (s.setSrc l).hc = s.hc := rfl
@[simp] theorem State.setSrc_mf (s : State) (l : List Byte) : (s.setSrc l).mf = s.mf := rfl
@[simp] theorem State.setSrc_bk (s : State) (l : List Byte) : (s.setSrc l).bk = s.bk := rfl
@[simp] theorem State.setSrc_outq (s : State) (l : List Byte) : (s.setSrc l).outq = s.outq := rfl
@[simp] theorem State.setSrc_port (s : State) (l : List Byte) : (s.setSrc l).port = { s.port with src := l } := rfl
@[simp] theorem State.setSrc_gen (s : State) (l : List Byte) : (s.setSrc l).gen = s.gen := rfl

/-! `supplied` -/

@[simp] theorem State.supplied_err (s : State) (l : List Byte) : (s.supplied l).err = s.err := rfl
@[simp] theorem State.supplied_bc (s : State) (l : List Byte) : (s.supplied l).bc = s.bc := rfl
@[simp] theorem State.supplied_sw (s : State) (l : List Byte) : (s.supplied l).sw = s.sw := rfl
@[simp] theorem State.supplied_hc (s : State) (l : List Byte) : (s.supplied l).hc = s.hc := rfl
@[simp] theorem State.supplied_mf (s : State) (l : List Byte) : (s.supplied l).mf = s.mf := rfl
@[simp] theorem State.supplied_bk (s : State) (l : List Byte) : (s.supplied l).bk = s.bk := rfl
@[simp] theorem State.supplied_outq (s : State) (l : List Byte) : (s.supplied l).outq = s.outq := rfl
@[simp] theorem State.supplied_port (s : State) (l : List Byte) : (s.supplied l).port = { s.port with src := s.port.src ++ l } := rfl
@[simp] theorem State.supplied_gen (s : State) (l : List Byte) : (s.supplied l).gen = s.gen := rfl

/-! `sinkPut` -/

@[simp] theorem State.sinkPut_err (s : State) (l : List Byte) : (s.sinkPut l).err = s.err := rfl
@[simp] theorem State.sinkPut_bc (s : State) (l : List Byte) : (s.sinkPut l).bc = s.bc := rfl
@[simp] theorem State.sinkPut_sw (s : State) (l : List Byte) : (s.sinkPut l).sw = s.sw := rfl
@[simp] theorem State.sinkPut_hc (s : State) (l : List Byte) : (s.sinkPut l).hc = s.hc := rfl
@[simp] theorem State.sinkPut_mf (s : State) (l : List Byte) : (s.sinkPut l).mf = s.mf := rfl
@[simp] theorem State.sinkPut_bk (s : State) (l : List Byte) : (s.sinkPut l).bk = s.bk := rfl
@[simp] theorem State.sinkPut_outq (s : State) (l : List Byte) : (s.sinkPut l).outq = s.outq := rfl
@[simp] theorem State.sinkPut_port (s : State) (l : List Byte) : (s.sinkPut l).port = { s.port with sink := s.port.sink ++ l } := rfl
@[simp] theorem State.sinkPut_gen (s : State) (l : List Byte) : (s.sinkPut l).gen = s.gen := rfl

/-! `sinkFlush` -/

@[simp] theorem State.sinkFlush_err (s : State) : (s.sinkFlush).err = s.err := rfl
@[simp] theorem State.sinkFlush_bc (s : State) : (s.sinkFlush).bc = s.bc := rfl
@[simp] theorem State.sinkFlush_sw (s : State) : (s.sinkFlush).sw = s.sw := rfl
@[simp] theorem State.sinkFlush_hc (s : State) : (s.sinkFlush).hc = s.hc := rfl
@[simp] theorem State.sinkFlush_mf (s : State) : (s.sinkFlush).mf = s.mf := rfl
@[simp] theorem State.sinkFlush_bk (s : State) : (s.sinkFlush).bk = s.bk := rfl
@[simp] theorem State.sinkFlush_outq (s : State) : (s.sinkFlush).outq = s.outq := rfl
@[simp] theorem State.sinkFlush_port (s : State) : (s.sinkFlush).port = { s.port with committed := s.port.sink.length, flushes := s.port.flushes + 1 } := rfl
@[simp] theorem State.sinkFlush_gen (s : State) : (s.sinkFlush).gen = s.gen := rfl

/-! `respond` -/

@[simp] theorem State.respond_err (s : State) (r : Response) : (s.respond r).err = s.err := rfl
@[simp] theorem State.respond_bc (s : State) (r : Response) : (s.respond r).bc = s.bc := rfl
@[simp] theorem State.respond_sw (s : State) (r : Response) : (s.respond r).sw = s.sw := rfl
@[simp] theorem State.respond_hc (s : State) (r : Response) : (s.respond r).hc = s.hc := rfl
@[simp] theorem State.respond_mf (s : State) (r : Response) : (s.respond r).mf = s.mf := rfl
@[simp] theorem State.respond_bk (s : State) (r : Response) : (s.respond r).bk = s.bk := rfl
@[simp] theorem State.respond_outq (s : State) (r : Response) : (s.respond r).outq = s.outq := rfl
@[simp] theorem State.respond_port (s : State) (r : Response) : (s.respond r).port = { s.port with responses := s.port.responses ++ [r] } := rfl
@[simp] theorem State.respond_gen (s : State) (r : Response) : (s.respond r).gen = s.gen := rfl

/-! `ok` -/

@[simp] theorem State.ok_err (s : State) (a b : Nat) : (s.ok a b).err = s.err := rfl
@[simp] theorem State.ok_bc (s : State) (a b : Nat) : (s.ok a b).bc = s.bc := rfl
@[simp] theorem State.ok_sw (s : State) (a b : Nat) : (s.ok a b).sw = s.sw := rfl
@[simp] theorem State.ok_hc (s : State) (a b : Nat) : (s.ok a b).hc = s.hc := rfl
@[simp] theorem State.ok_mf (s : State) (a b : Nat) : (s.ok a b).mf = s.mf := rfl
@[simp] theorem State.ok_bk (s : State) (a b : Nat) : (s.ok a b).bk = s.bk := rfl
@[simp] theorem State.ok_outq (s : State) (a b : Nat) : (s.ok a b).outq = s.outq := rfl
@[simp] theorem State.ok_port (s : State) (a b : Nat) : (s.ok a b).port = { s.port with responses := s.port.responses ++
    [{ err := 0, aux := 0, r0 := BitVec.ofNat 32 a, r1 := BitVec.ofNat 32 b }] } := rfl
@[simp] theorem State.ok_gen (s : State) (a b : Nat) : (s.ok a b).gen = s.gen := rfl

/-! `recordFault` -/

@[simp] theorem State.recordFault_err (s : State) (f : Raised) : (s.recordFault f).err = 
    { kind := f.kind.code, unit := BitVec.ofNat 8 f.unit, info := BitVec.ofNat 32 f.info } := rfl
@[simp] theorem State.recordFault_bc (s : State) (f : Raised) : (s.recordFault f).bc = s.bc := rfl
@[simp] theorem State.recordFault_sw (s : State) (f : Raised) : (s.recordFault f).sw = s.sw := rfl
@[simp] theorem State.recordFault_hc (s : State) (f : Raised) : (s.recordFault f).hc = s.hc := rfl
@[simp] theorem State.recordFault_mf (s : State) (f : Raised) : (s.recordFault f).mf = s.mf := rfl
@[simp] theorem State.recordFault_bk (s : State) (f : Raised) : (s.recordFault f).bk = s.bk := rfl
@[simp] theorem State.recordFault_outq (s : State) (f : Raised) : (s.recordFault f).outq = s.outq := rfl
@[simp] theorem State.recordFault_port (s : State) (f : Raised) : (s.recordFault f).port = s.port := rfl
@[simp] theorem State.recordFault_gen (s : State) (f : Raised) : (s.recordFault f).gen = s.gen := rfl

/-! `raiseDirect` -/

@[simp] theorem State.raiseDirect_err (s : State) (f : Raised) : (s.raiseDirect f).err = 
    { kind := f.kind.code, unit := BitVec.ofNat 8 f.unit, info := BitVec.ofNat 32 f.info } := rfl
@[simp] theorem State.raiseDirect_bc (s : State) (f : Raised) : (s.raiseDirect f).bc = s.bc := rfl
@[simp] theorem State.raiseDirect_sw (s : State) (f : Raised) : (s.raiseDirect f).sw = s.sw := rfl
@[simp] theorem State.raiseDirect_hc (s : State) (f : Raised) : (s.raiseDirect f).hc = s.hc := rfl
@[simp] theorem State.raiseDirect_mf (s : State) (f : Raised) : (s.raiseDirect f).mf = s.mf := rfl
@[simp] theorem State.raiseDirect_bk (s : State) (f : Raised) : (s.raiseDirect f).bk = s.bk := rfl
@[simp] theorem State.raiseDirect_outq (s : State) (f : Raised) : (s.raiseDirect f).outq = s.outq := rfl
@[simp] theorem State.raiseDirect_port (s : State) (f : Raised) : (s.raiseDirect f).port = { s.port with responses := s.port.responses ++
    [{ err := f.kind.code, aux := 0, r0 := BitVec.ofNat 32 f.info, r1 := 0 }] } := rfl
@[simp] theorem State.raiseDirect_gen (s : State) (f : Raised) : (s.raiseDirect f).gen = s.gen := rfl

/-! `raiseCounts` -/

@[simp] theorem State.raiseCounts_err (s : State) (f : Raised) (a b : Nat) : (s.raiseCounts f a b).err = 
    { kind := f.kind.code, unit := BitVec.ofNat 8 f.unit, info := BitVec.ofNat 32 f.info } := rfl
@[simp] theorem State.raiseCounts_bc (s : State) (f : Raised) (a b : Nat) : (s.raiseCounts f a b).bc = s.bc := rfl
@[simp] theorem State.raiseCounts_sw (s : State) (f : Raised) (a b : Nat) : (s.raiseCounts f a b).sw = s.sw := rfl
@[simp] theorem State.raiseCounts_hc (s : State) (f : Raised) (a b : Nat) : (s.raiseCounts f a b).hc = s.hc := rfl
@[simp] theorem State.raiseCounts_mf (s : State) (f : Raised) (a b : Nat) : (s.raiseCounts f a b).mf = s.mf := rfl
@[simp] theorem State.raiseCounts_bk (s : State) (f : Raised) (a b : Nat) : (s.raiseCounts f a b).bk = s.bk := rfl
@[simp] theorem State.raiseCounts_outq (s : State) (f : Raised) (a b : Nat) : (s.raiseCounts f a b).outq = s.outq := rfl
@[simp] theorem State.raiseCounts_port (s : State) (f : Raised) (a b : Nat) : (s.raiseCounts f a b).port = { s.port with responses := s.port.responses ++
    [{ err := f.kind.code, aux := 0, r0 := BitVec.ofNat 32 a, r1 := BitVec.ofNat 32 b }] } := rfl
@[simp] theorem State.raiseCounts_gen (s : State) (f : Raised) (a b : Nat) : (s.raiseCounts f a b).gen = s.gen := rfl

/-! `misuse` -/

@[simp] theorem State.misuse_err (s : State) (op : BitVec 8) : (s.misuse op).err = 
    { kind := 6, unit := BitVec.ofNat 8 (unitOfOp op.toNat), info := BitVec.ofNat 32 op.toNat } := rfl
@[simp] theorem State.misuse_bc (s : State) (op : BitVec 8) : (s.misuse op).bc = s.bc := rfl
@[simp] theorem State.misuse_sw (s : State) (op : BitVec 8) : (s.misuse op).sw = s.sw := rfl
@[simp] theorem State.misuse_hc (s : State) (op : BitVec 8) : (s.misuse op).hc = s.hc := rfl
@[simp] theorem State.misuse_mf (s : State) (op : BitVec 8) : (s.misuse op).mf = s.mf := rfl
@[simp] theorem State.misuse_bk (s : State) (op : BitVec 8) : (s.misuse op).bk = s.bk := rfl
@[simp] theorem State.misuse_outq (s : State) (op : BitVec 8) : (s.misuse op).outq = s.outq := rfl
@[simp] theorem State.misuse_port (s : State) (op : BitVec 8) : (s.misuse op).port = { s.port with responses := s.port.responses ++
    [{ err := 6, aux := 0, r0 := BitVec.ofNat 32 op.toNat, r1 := 0 }] } := rfl
@[simp] theorem State.misuse_gen (s : State) (op : BitVec 8) : (s.misuse op).gen = s.gen := rfl

/-! `misuseWith` -/

@[simp] theorem State.misuseWith_err (s : State) (op : BitVec 8) (x : Nat) : (s.misuseWith op x).err = 
    { kind := 6, unit := BitVec.ofNat 8 (unitOfOp op.toNat), info := BitVec.ofNat 32 x } := rfl
@[simp] theorem State.misuseWith_bc (s : State) (op : BitVec 8) (x : Nat) : (s.misuseWith op x).bc = s.bc := rfl
@[simp] theorem State.misuseWith_sw (s : State) (op : BitVec 8) (x : Nat) : (s.misuseWith op x).sw = s.sw := rfl
@[simp] theorem State.misuseWith_hc (s : State) (op : BitVec 8) (x : Nat) : (s.misuseWith op x).hc = s.hc := rfl
@[simp] theorem State.misuseWith_mf (s : State) (op : BitVec 8) (x : Nat) : (s.misuseWith op x).mf = s.mf := rfl
@[simp] theorem State.misuseWith_bk (s : State) (op : BitVec 8) (x : Nat) : (s.misuseWith op x).bk = s.bk := rfl
@[simp] theorem State.misuseWith_outq (s : State) (op : BitVec 8) (x : Nat) : (s.misuseWith op x).outq = s.outq := rfl
@[simp] theorem State.misuseWith_port (s : State) (op : BitVec 8) (x : Nat) : (s.misuseWith op x).port = { s.port with responses := s.port.responses ++
    [{ err := 6, aux := 0, r0 := BitVec.ofNat 32 x, r1 := 0 }] } := rfl
@[simp] theorem State.misuseWith_gen (s : State) (op : BitVec 8) (x : Nat) : (s.misuseWith op x).gen = s.gen := rfl

/-! `setChannel` -/

@[simp] theorem State.setChannel_err (s : State) (r : Bc × List Byte) : (s.setChannel r).err = s.err := rfl
@[simp] theorem State.setChannel_bc (s : State) (r : Bc × List Byte) : (s.setChannel r).bc = r.1 := rfl
@[simp] theorem State.setChannel_sw (s : State) (r : Bc × List Byte) : (s.setChannel r).sw = s.sw := rfl
@[simp] theorem State.setChannel_hc (s : State) (r : Bc × List Byte) : (s.setChannel r).hc = s.hc := rfl
@[simp] theorem State.setChannel_mf (s : State) (r : Bc × List Byte) : (s.setChannel r).mf = s.mf := rfl
@[simp] theorem State.setChannel_bk (s : State) (r : Bc × List Byte) : (s.setChannel r).bk = s.bk := rfl
@[simp] theorem State.setChannel_outq (s : State) (r : Bc × List Byte) : (s.setChannel r).outq = s.outq := rfl
@[simp] theorem State.setChannel_port (s : State) (r : Bc × List Byte) : (s.setChannel r).port = { s.port with src := r.2 } := rfl
@[simp] theorem State.setChannel_gen (s : State) (r : Bc × List Byte) : (s.setChannel r).gen = s.gen := rfl

/-! `putChannel` -/

@[simp] theorem State.putChannel_err (s : State) (r : Bc × List Byte) : (s.putChannel r).err = s.err := rfl
@[simp] theorem State.putChannel_bc (s : State) (r : Bc × List Byte) : (s.putChannel r).bc = r.1 := rfl
@[simp] theorem State.putChannel_sw (s : State) (r : Bc × List Byte) : (s.putChannel r).sw = s.sw := rfl
@[simp] theorem State.putChannel_hc (s : State) (r : Bc × List Byte) : (s.putChannel r).hc = s.hc := rfl
@[simp] theorem State.putChannel_mf (s : State) (r : Bc × List Byte) : (s.putChannel r).mf = s.mf := rfl
@[simp] theorem State.putChannel_bk (s : State) (r : Bc × List Byte) : (s.putChannel r).bk = s.bk := rfl
@[simp] theorem State.putChannel_outq (s : State) (r : Bc × List Byte) : (s.putChannel r).outq = s.outq := rfl
@[simp] theorem State.putChannel_port (s : State) (r : Bc × List Byte) : (s.putChannel r).port = { s.port with sink := s.port.sink ++ r.2 } := rfl
@[simp] theorem State.putChannel_gen (s : State) (r : Bc × List Byte) : (s.putChannel r).gen = s.gen := rfl

/-! `skip` -/

@[simp] theorem State.skip_err (s : State) (n : Nat) : (s.skip n).err = s.err := rfl
@[simp] theorem State.skip_bc (s : State) (n : Nat) : (s.skip n).bc = s.bc.skip n := rfl
@[simp] theorem State.skip_sw (s : State) (n : Nat) : (s.skip n).sw = s.sw := rfl
@[simp] theorem State.skip_hc (s : State) (n : Nat) : (s.skip n).hc = s.hc := rfl
@[simp] theorem State.skip_mf (s : State) (n : Nat) : (s.skip n).mf = s.mf := rfl
@[simp] theorem State.skip_bk (s : State) (n : Nat) : (s.skip n).bk = s.bk := rfl
@[simp] theorem State.skip_outq (s : State) (n : Nat) : (s.skip n).outq = s.outq := rfl
@[simp] theorem State.skip_port (s : State) (n : Nat) : (s.skip n).port = s.port := rfl
@[simp] theorem State.skip_gen (s : State) (n : Nat) : (s.skip n).gen = s.gen := rfl

/-! `out` -/

@[simp] theorem State.out_err (s : State) (b : Byte) : (s.out b).err = s.err := rfl
@[simp] theorem State.out_bc (s : State) (b : Byte) : (s.out b).bc = s.bc := rfl
@[simp] theorem State.out_sw (s : State) (b : Byte) : (s.out b).sw = s.sw.push b := rfl
@[simp] theorem State.out_hc (s : State) (b : Byte) : (s.out b).hc = s.hc := rfl
@[simp] theorem State.out_mf (s : State) (b : Byte) : (s.out b).mf = s.mf := rfl
@[simp] theorem State.out_bk (s : State) (b : Byte) : (s.out b).bk = { s.bk with outTotal := s.bk.outTotal + 1 } := rfl
@[simp] theorem State.out_outq (s : State) (b : Byte) : (s.out b).outq = s.outq := rfl
@[simp] theorem State.out_port (s : State) (b : Byte) : (s.out b).port = { s.port with sink := s.port.sink ++ [b] } := rfl
@[simp] theorem State.out_gen (s : State) (b : Byte) : (s.out b).gen = s.gen := rfl

/-! `goto` -/

@[simp] theorem State.goto_err (s : State) (p : Phase) : (s.goto p).err = s.err := rfl
@[simp] theorem State.goto_bc (s : State) (p : Phase) : (s.goto p).bc = s.bc := rfl
@[simp] theorem State.goto_sw (s : State) (p : Phase) : (s.goto p).sw = s.sw := rfl
@[simp] theorem State.goto_hc (s : State) (p : Phase) : (s.goto p).hc = s.hc := rfl
@[simp] theorem State.goto_mf (s : State) (p : Phase) : (s.goto p).mf = s.mf := rfl
@[simp] theorem State.goto_bk (s : State) (p : Phase) : (s.goto p).bk = { s.bk with phase := p } := rfl
@[simp] theorem State.goto_outq (s : State) (p : Phase) : (s.goto p).outq = s.outq := rfl
@[simp] theorem State.goto_port (s : State) (p : Phase) : (s.goto p).port = s.port := rfl
@[simp] theorem State.goto_gen (s : State) (p : Phase) : (s.goto p).gen = s.gen := rfl

/-! `setTable` -/

@[simp] theorem State.setTable_err (s : State) (k : Nat) (t : Table) : (s.setTable k t).err = s.err := by
  unfold State.setTable; split <;> rfl
@[simp] theorem State.setTable_bc (s : State) (k : Nat) (t : Table) : (s.setTable k t).bc = s.bc := by
  unfold State.setTable; split <;> rfl
@[simp] theorem State.setTable_sw (s : State) (k : Nat) (t : Table) : (s.setTable k t).sw = s.sw := by
  unfold State.setTable; split <;> rfl
@[simp] theorem State.setTable_mf (s : State) (k : Nat) (t : Table) : (s.setTable k t).mf = s.mf := by
  unfold State.setTable; split <;> rfl
@[simp] theorem State.setTable_bk (s : State) (k : Nat) (t : Table) : (s.setTable k t).bk = s.bk := by
  unfold State.setTable; split <;> rfl
@[simp] theorem State.setTable_outq (s : State) (k : Nat) (t : Table) : (s.setTable k t).outq = s.outq := by
  unfold State.setTable; split <;> rfl
@[simp] theorem State.setTable_port (s : State) (k : Nat) (t : Table) : (s.setTable k t).port = s.port := by
  unfold State.setTable; split <;> rfl
@[simp] theorem State.setTable_gen (s : State) (k : Nat) (t : Table) : (s.setTable k t).gen = s.gen := by
  unfold State.setTable; split <;> rfl

@[simp] theorem State.setTable_stg (s : State) (k : Nat) (t : Table) : (s.setTable k t).hc.stg = s.hc.stg := by
  unfold State.setTable; split <;> rfl

/-! `discard` -/

@[simp] theorem State.discard_err (s : State) (k : Nat) : (s.discard k).err = s.err := by
  simp [State.discard]
@[simp] theorem State.discard_bc (s : State) (k : Nat) : (s.discard k).bc = s.bc := by
  simp [State.discard]
@[simp] theorem State.discard_sw (s : State) (k : Nat) : (s.discard k).sw = s.sw := by
  simp [State.discard]
@[simp] theorem State.discard_mf (s : State) (k : Nat) : (s.discard k).mf = s.mf := by
  simp [State.discard]
@[simp] theorem State.discard_bk (s : State) (k : Nat) : (s.discard k).bk = s.bk := by
  simp [State.discard]
@[simp] theorem State.discard_outq (s : State) (k : Nat) : (s.discard k).outq = s.outq := by
  simp [State.discard]
@[simp] theorem State.discard_port (s : State) (k : Nat) : (s.discard k).port = s.port := by
  simp [State.discard]
@[simp] theorem State.discard_gen (s : State) (k : Nat) : (s.discard k).gen = s.gen := by
  simp [State.discard]

@[simp] theorem State.discard_stg (s : State) (k : Nat) : (s.discard k).hc.stg = s.hc.stg := by
  simp [State.discard]

/-! `stage` -/

@[simp] theorem State.stage_err (s : State) (a : Nat) (l : List Nat) : (s.stage a l).err = s.err := rfl
@[simp] theorem State.stage_bc (s : State) (a : Nat) (l : List Nat) : (s.stage a l).bc = s.bc := rfl
@[simp] theorem State.stage_sw (s : State) (a : Nat) (l : List Nat) : (s.stage a l).sw = s.sw := rfl
@[simp] theorem State.stage_hc (s : State) (a : Nat) (l : List Nat) : (s.stage a l).hc = { s.hc with stg := s.hc.stg.setList a (l.map (BitVec.ofNat 32)) } := rfl
@[simp] theorem State.stage_mf (s : State) (a : Nat) (l : List Nat) : (s.stage a l).mf = s.mf := rfl
@[simp] theorem State.stage_bk (s : State) (a : Nat) (l : List Nat) : (s.stage a l).bk = s.bk := rfl
@[simp] theorem State.stage_outq (s : State) (a : Nat) (l : List Nat) : (s.stage a l).outq = s.outq := rfl
@[simp] theorem State.stage_port (s : State) (a : Nat) (l : List Nat) : (s.stage a l).port = s.port := rfl
@[simp] theorem State.stage_gen (s : State) (a : Nat) (l : List Nat) : (s.stage a l).gen = s.gen := rfl

/-! `putBuilt` -/

@[simp] theorem State.putBuilt_err (s : State) (k : Nat) (b : Built) : (s.putBuilt k b).err = s.err := by
  cases b <;> simp [State.putBuilt]
@[simp] theorem State.putBuilt_bc (s : State) (k : Nat) (b : Built) : (s.putBuilt k b).bc = s.bc := by
  cases b <;> simp [State.putBuilt]
@[simp] theorem State.putBuilt_sw (s : State) (k : Nat) (b : Built) : (s.putBuilt k b).sw = s.sw := by
  cases b <;> simp [State.putBuilt]
@[simp] theorem State.putBuilt_mf (s : State) (k : Nat) (b : Built) : (s.putBuilt k b).mf = s.mf := by
  cases b <;> simp [State.putBuilt]
@[simp] theorem State.putBuilt_bk (s : State) (k : Nat) (b : Built) : (s.putBuilt k b).bk = s.bk := by
  cases b <;> simp [State.putBuilt]
@[simp] theorem State.putBuilt_outq (s : State) (k : Nat) (b : Built) : (s.putBuilt k b).outq = s.outq := by
  cases b <;> simp [State.putBuilt]
@[simp] theorem State.putBuilt_port (s : State) (k : Nat) (b : Built) : (s.putBuilt k b).port = s.port := by
  cases b <;> simp [State.putBuilt]
@[simp] theorem State.putBuilt_gen (s : State) (k : Nat) (b : Built) : (s.putBuilt k b).gen = s.gen := by
  cases b <;> simp [State.putBuilt]

/-! `countIn` -/

@[simp] theorem State.countIn_err (s : State) (n : Nat) : (s.countIn n).err = s.err := rfl
@[simp] theorem State.countIn_bc (s : State) (n : Nat) : (s.countIn n).bc = s.bc := rfl
@[simp] theorem State.countIn_sw (s : State) (n : Nat) : (s.countIn n).sw = s.sw := rfl
@[simp] theorem State.countIn_hc (s : State) (n : Nat) : (s.countIn n).hc = s.hc := rfl
@[simp] theorem State.countIn_mf (s : State) (n : Nat) : (s.countIn n).mf = s.mf := rfl
@[simp] theorem State.countIn_bk (s : State) (n : Nat) : (s.countIn n).bk = { s.bk with inTotal := s.bk.inTotal + n } := rfl
@[simp] theorem State.countIn_outq (s : State) (n : Nat) : (s.countIn n).outq = s.outq := rfl
@[simp] theorem State.countIn_port (s : State) (n : Nat) : (s.countIn n).port = s.port := rfl
@[simp] theorem State.countIn_gen (s : State) (n : Nat) : (s.countIn n).gen = s.gen := rfl

/-! `setIn` -/

@[simp] theorem State.setIn_err (s : State) : (s.setIn).err = s.err := rfl
@[simp] theorem State.setIn_bc (s : State) : (s.setIn).bc = s.bc := rfl
@[simp] theorem State.setIn_sw (s : State) : (s.setIn).sw = s.sw := rfl
@[simp] theorem State.setIn_hc (s : State) : (s.setIn).hc = s.hc := rfl
@[simp] theorem State.setIn_mf (s : State) : (s.setIn).mf = s.mf := rfl
@[simp] theorem State.setIn_bk (s : State) : (s.setIn).bk = { s.bk with inTotal := s.bc.nbytes } := rfl
@[simp] theorem State.setIn_outq (s : State) : (s.setIn).outq = s.outq := rfl
@[simp] theorem State.setIn_port (s : State) : (s.setIn).port = s.port := rfl
@[simp] theorem State.setIn_gen (s : State) : (s.setIn).gen = s.gen := rfl

/-! `markLast` -/

@[simp] theorem State.markLast_err (s : State) (b : Bool) : (s.markLast b).err = s.err := rfl
@[simp] theorem State.markLast_bc (s : State) (b : Bool) : (s.markLast b).bc = s.bc := rfl
@[simp] theorem State.markLast_sw (s : State) (b : Bool) : (s.markLast b).sw = s.sw := rfl
@[simp] theorem State.markLast_hc (s : State) (b : Bool) : (s.markLast b).hc = s.hc := rfl
@[simp] theorem State.markLast_mf (s : State) (b : Bool) : (s.markLast b).mf = s.mf := rfl
@[simp] theorem State.markLast_bk (s : State) (b : Bool) : (s.markLast b).bk = { s.bk with last := s.bk.last || b } := rfl
@[simp] theorem State.markLast_outq (s : State) (b : Bool) : (s.markLast b).outq = s.outq := rfl
@[simp] theorem State.markLast_port (s : State) (b : Bool) : (s.markLast b).port = s.port := rfl
@[simp] theorem State.markLast_gen (s : State) (b : Bool) : (s.markLast b).gen = s.gen := rfl

/-! `runEnc` -/

@[simp] theorem State.runEnc_err (s : State) (P : Config.Params) (ops : List WOp) : (s.runEnc P ops).err = s.err := rfl
@[simp] theorem State.runEnc_bc (s : State) (P : Config.Params) (ops : List WOp) : (s.runEnc P ops).bc = (runOps P s.bc ops).1 := rfl
@[simp] theorem State.runEnc_sw (s : State) (P : Config.Params) (ops : List WOp) : (s.runEnc P ops).sw = s.sw := rfl
@[simp] theorem State.runEnc_hc (s : State) (P : Config.Params) (ops : List WOp) : (s.runEnc P ops).hc = s.hc := rfl
@[simp] theorem State.runEnc_mf (s : State) (P : Config.Params) (ops : List WOp) : (s.runEnc P ops).mf = s.mf := rfl
@[simp] theorem State.runEnc_bk (s : State) (P : Config.Params) (ops : List WOp) : (s.runEnc P ops).bk = s.bk := rfl
@[simp] theorem State.runEnc_outq (s : State) (P : Config.Params) (ops : List WOp) : (s.runEnc P ops).outq = s.outq ++ (runOps P s.bc ops).2 := rfl
@[simp] theorem State.runEnc_port (s : State) (P : Config.Params) (ops : List WOp) : (s.runEnc P ops).port = s.port := rfl
@[simp] theorem State.runEnc_gen (s : State) (P : Config.Params) (ops : List WOp) : (s.runEnc P ops).gen = s.gen := rfl

/-! `forget` -/

@[simp] theorem State.forget_err (s : State) : (s.forget).err = s.err := rfl
@[simp] theorem State.forget_bc (s : State) : (s.forget).bc = s.bc := rfl
@[simp] theorem State.forget_sw (s : State) : (s.forget).sw = s.sw := rfl
@[simp] theorem State.forget_bk (s : State) : (s.forget).bk = s.bk := rfl
@[simp] theorem State.forget_outq (s : State) : (s.forget).outq = s.outq := rfl
@[simp] theorem State.forget_port (s : State) : (s.forget).port = s.port := rfl
@[simp] theorem State.forget_gen (s : State) : (s.forget).gen = s.gen + 1 := rfl

/-! `closeFaulted` -/

@[simp] theorem State.closeFaulted_err (s : State) : (s.closeFaulted).err = s.err := rfl
@[simp] theorem State.closeFaulted_bc (s : State) : (s.closeFaulted).bc = s.bc := rfl
@[simp] theorem State.closeFaulted_sw (s : State) : (s.closeFaulted).sw = s.sw := rfl
@[simp] theorem State.closeFaulted_bk (s : State) : (s.closeFaulted).bk = { s.bk with phase := .fault } := rfl
@[simp] theorem State.closeFaulted_outq (s : State) : (s.closeFaulted).outq = s.outq := rfl
@[simp] theorem State.closeFaulted_port (s : State) : (s.closeFaulted).port = s.port := rfl
@[simp] theorem State.closeFaulted_gen (s : State) : (s.closeFaulted).gen = s.gen + 1 := rfl

/-! `discardAll` -/

@[simp] theorem State.discardAll_err (s : State) : (s.discardAll).err = s.err := by
  simp [State.discardAll]
@[simp] theorem State.discardAll_bc (s : State) : (s.discardAll).bc = s.bc := by
  simp [State.discardAll]
@[simp] theorem State.discardAll_sw (s : State) : (s.discardAll).sw = s.sw := by
  simp [State.discardAll]
@[simp] theorem State.discardAll_mf (s : State) : (s.discardAll).mf = s.mf := by
  simp [State.discardAll]
@[simp] theorem State.discardAll_bk (s : State) : (s.discardAll).bk = s.bk := by
  simp [State.discardAll]
@[simp] theorem State.discardAll_outq (s : State) : (s.discardAll).outq = s.outq := by
  simp [State.discardAll]
@[simp] theorem State.discardAll_port (s : State) : (s.discardAll).port = s.port := by
  simp [State.discardAll]
@[simp] theorem State.discardAll_gen (s : State) : (s.discardAll).gen = s.gen := by
  simp [State.discardAll]

/-! `closeFinished` -/

@[simp] theorem State.closeFinished_err (s : State) : (s.closeFinished).err = s.err := by
  simp [State.closeFinished]
@[simp] theorem State.closeFinished_bc (s : State) : (s.closeFinished).bc = s.bc := by
  simp [State.closeFinished]
@[simp] theorem State.closeFinished_sw (s : State) : (s.closeFinished).sw = s.sw := by
  simp [State.closeFinished]
@[simp] theorem State.closeFinished_bk (s : State) : (s.closeFinished).bk = { s.bk with phase := .done } := by
  simp [State.closeFinished]
@[simp] theorem State.closeFinished_outq (s : State) : (s.closeFinished).outq = s.outq := by
  simp [State.closeFinished]
@[simp] theorem State.closeFinished_port (s : State) : (s.closeFinished).port = s.port := by
  simp [State.closeFinished]
@[simp] theorem State.closeFinished_gen (s : State) : (s.closeFinished).gen = s.gen + 1 := by
  simp [State.closeFinished]

/-! `mfAbsorb` -/

@[simp] theorem State.mfAbsorb_err (s : State) (b : Bool) : (s.mfAbsorb b).err = s.err := rfl
@[simp] theorem State.mfAbsorb_bc (s : State) (b : Bool) : (s.mfAbsorb b).bc = s.bc := rfl
@[simp] theorem State.mfAbsorb_sw (s : State) (b : Bool) : (s.mfAbsorb b).sw = s.sw := rfl
@[simp] theorem State.mfAbsorb_hc (s : State) (b : Bool) : (s.mfAbsorb b).hc = s.hc := rfl
@[simp] theorem State.mfAbsorb_mf (s : State) (b : Bool) : (s.mfAbsorb b).mf = { s.mf with input := s.mf.input ++ s.port.src, last := s.mf.last || b } := rfl
@[simp] theorem State.mfAbsorb_bk (s : State) (b : Bool) : (s.mfAbsorb b).bk = s.bk := rfl
@[simp] theorem State.mfAbsorb_outq (s : State) (b : Bool) : (s.mfAbsorb b).outq = s.outq := rfl
@[simp] theorem State.mfAbsorb_port (s : State) (b : Bool) : (s.mfAbsorb b).port = { s.port with src := [] } := rfl
@[simp] theorem State.mfAbsorb_gen (s : State) (b : Bool) : (s.mfAbsorb b).gen = s.gen := rfl

/-! `mfRun` -/

@[simp] theorem State.mfRun_err (s : State) (P : Config.Params) : (s.mfRun P).err = s.err := rfl
@[simp] theorem State.mfRun_bc (s : State) (P : Config.Params) : (s.mfRun P).bc = s.bc := rfl
@[simp] theorem State.mfRun_sw (s : State) (P : Config.Params) : (s.mfRun P).sw = (Machine.mfRun P s.mf s.sw).2 := rfl
@[simp] theorem State.mfRun_hc (s : State) (P : Config.Params) : (s.mfRun P).hc = s.hc := rfl
@[simp] theorem State.mfRun_mf (s : State) (P : Config.Params) : (s.mfRun P).mf = (Machine.mfRun P s.mf s.sw).1 := rfl
@[simp] theorem State.mfRun_bk (s : State) (P : Config.Params) : (s.mfRun P).bk = s.bk := rfl
@[simp] theorem State.mfRun_outq (s : State) (P : Config.Params) : (s.mfRun P).outq = s.outq := rfl
@[simp] theorem State.mfRun_port (s : State) (P : Config.Params) : (s.mfRun P).port = s.port := rfl
@[simp] theorem State.mfRun_gen (s : State) (P : Config.Params) : (s.mfRun P).gen = s.gen := rfl

/-! `mfInit` -/

@[simp] theorem State.mfInit_err (s : State) (P : Config.Params) (level : Nat) : (s.mfInit P level).err = s.err := rfl
@[simp] theorem State.mfInit_bc (s : State) (P : Config.Params) (level : Nat) : (s.mfInit P level).bc = s.bc := rfl
@[simp] theorem State.mfInit_sw (s : State) (P : Config.Params) (level : Nat) : (s.mfInit P level).sw = s.sw.init windowCap := rfl
@[simp] theorem State.mfInit_hc (s : State) (P : Config.Params) (level : Nat) : (s.mfInit P level).hc = s.hc := rfl
@[simp] theorem State.mfInit_mf (s : State) (P : Config.Params) (level : Nat) : (s.mfInit P level).mf = s.mf.init P level := rfl
@[simp] theorem State.mfInit_bk (s : State) (P : Config.Params) (level : Nat) : (s.mfInit P level).bk = s.bk := rfl
@[simp] theorem State.mfInit_outq (s : State) (P : Config.Params) (level : Nat) : (s.mfInit P level).outq = s.outq := rfl
@[simp] theorem State.mfInit_port (s : State) (P : Config.Params) (level : Nat) : (s.mfInit P level).port = s.port := rfl
@[simp] theorem State.mfInit_gen (s : State) (P : Config.Params) (level : Nat) : (s.mfInit P level).gen = s.gen := rfl

/-! `coreReset` -/

@[simp] theorem State.coreReset_err (s : State) : (s.coreReset).err = 
    { kind := 0, unit := 0, info := 0 } := rfl
@[simp] theorem State.coreReset_bc (s : State) : (s.coreReset).bc = Bc.reset := rfl
@[simp] theorem State.coreReset_sw (s : State) : (s.coreReset).sw = Sw.reset s.gen := rfl
@[simp] theorem State.coreReset_hc (s : State) : (s.coreReset).hc = Hc.reset s.gen := rfl
@[simp] theorem State.coreReset_mf (s : State) : (s.coreReset).mf = Mf.reset s.gen := rfl
@[simp] theorem State.coreReset_bk (s : State) : (s.coreReset).bk = Bk.reset := rfl
@[simp] theorem State.coreReset_outq (s : State) : (s.coreReset).outq = [] := rfl
@[simp] theorem State.coreReset_port (s : State) : (s.coreReset).port = s.port := rfl
@[simp] theorem State.coreReset_gen (s : State) : (s.coreReset).gen = s.gen + 1 := rfl

/-! `feedOk` -/

@[simp] theorem State.feedOk_err (s : State) (st : FeedStatus) (a b : Nat) : (s.feedOk st a b).err = s.err := rfl
@[simp] theorem State.feedOk_bc (s : State) (st : FeedStatus) (a b : Nat) : (s.feedOk st a b).bc = s.bc := rfl
@[simp] theorem State.feedOk_sw (s : State) (st : FeedStatus) (a b : Nat) : (s.feedOk st a b).sw = s.sw := rfl
@[simp] theorem State.feedOk_hc (s : State) (st : FeedStatus) (a b : Nat) : (s.feedOk st a b).hc = s.hc := rfl
@[simp] theorem State.feedOk_mf (s : State) (st : FeedStatus) (a b : Nat) : (s.feedOk st a b).mf = s.mf := rfl
@[simp] theorem State.feedOk_bk (s : State) (st : FeedStatus) (a b : Nat) : (s.feedOk st a b).bk = s.bk := rfl
@[simp] theorem State.feedOk_outq (s : State) (st : FeedStatus) (a b : Nat) : (s.feedOk st a b).outq = s.outq := rfl
@[simp] theorem State.feedOk_port (s : State) (st : FeedStatus) (a b : Nat) : (s.feedOk st a b).port = { s.port with responses := s.port.responses ++
    [{ err := 0, aux := st.code, r0 := BitVec.ofNat 32 a, r1 := BitVec.ofNat 32 b }] } := rfl
@[simp] theorem State.feedOk_gen (s : State) (st : FeedStatus) (a b : Nat) : (s.feedOk st a b).gen = s.gen := rfl

/-! The table of a slot after a write -/

@[simp] theorem State.table_setTable_same (s : State) (k : Nat) (t : Table) (h : k < 3) : (s.setTable k t).table k = t := by
  match k, h with
  | 0, _ => rfl
  | 1, _ => rfl
  | 2, _ => rfl

theorem State.table_setTable_other (s : State) (k j : Nat) (t : Table) (h : j ≠ k) :
    (s.setTable k t).table j = s.table j := by
  match k, j with
  | 0, 0 => exact absurd rfl h
  | 1, 1 => exact absurd rfl h
  | 2, 2 => exact absurd rfl h
  | 0, _ + 1 => unfold State.table; split <;> first | rfl | omega
  | 1, 0 => rfl
  | 1, 2 => rfl
  | 1, _ + 3 => unfold State.table; split <;> first | rfl | omega
  | 2, 0 => rfl
  | 2, 1 => rfl
  | 2, _ + 3 => unfold State.table; split <;> first | rfl | omega
  | _ + 3, _ => rfl

/-- Slots 3 and 4 are constant: no write of a slot changes them (R33). -/
theorem State.table_constant (s s' : State) : s.table 3 = s'.table 3 ∧ s.table 4 = s'.table 4 := ⟨rfl, rfl⟩

end Sys2Proof.Machine
end

