-- ==== Sys2Proof/Laws/Ops.lean ====
section
/-! SUPPORT. What the shared operations of Machine/Ops.lean can do: the memories' read-after-write laws and canonical form,
the counter check, and the inversion of a micro-step's sequencing. -/

namespace Sys2Proof.Machine

/-! ### Lists of cells -/

theorem Mem.rising_mono {α : Type} {lo lo' : Nat} (h : lo' ≤ lo) :
    ∀ {l : List (Nat × α)}, Mem.rising lo l = true → Mem.rising lo' l = true
  | [], _ => rfl
  | (a, v) :: rest, hl => by
    simp only [Mem.rising, Bool.and_eq_true, decide_eq_true_eq] at hl ⊢
    exact ⟨by omega, hl.2⟩

theorem Mem.find_below {α : Type} {lo a : Nat} (ha : a < lo) :
    ∀ {l : List (Nat × α)}, Mem.rising lo l = true → Mem.find l a = none
  | [], _ => rfl
  | (a', v) :: rest, hl => by
    simp only [Mem.rising, Bool.and_eq_true, decide_eq_true_eq] at hl
    simp only [Mem.find]
    rw [if_neg (by omega), if_pos (by omega)]

theorem Mem.find_insertCell_same {α : Type} (a : Nat) (v : α) :
    ∀ l : List (Nat × α), Mem.find (Mem.insertCell a v l) a = some v
  | [] => by simp [Mem.insertCell, Mem.find]
  | (a', v') :: rest => by
    have ih := Mem.find_insertCell_same a v rest
    simp only [Mem.insertCell]
    split
    · simp [Mem.find]
    · split
      · simp [Mem.find]
      · simp only [Mem.find]
        rw [if_neg (by assumption), if_neg (by assumption)]
        exact ih

theorem Mem.find_insertCell_other {α : Type} {a b : Nat} (v : α) (h : b ≠ a) :
    ∀ l : List (Nat × α), Mem.find (Mem.insertCell a v l) b = Mem.find l b
  | [] => by simp only [Mem.insertCell, Mem.find]; rw [if_neg h]; split <;> rfl
  | (a', v') :: rest => by
    have ih := Mem.find_insertCell_other v h rest
    simp only [Mem.insertCell]
    split
    · rename_i hlt
      simp only [Mem.find]
      rw [if_neg h]
      split
      · rw [if_neg (by omega), if_pos (by omega)]
      · rfl
    · split
      · rename_i heq
        subst heq
        simp only [Mem.find]
        rw [if_neg h, if_neg h]
      · simp only [Mem.find, ih]

theorem Mem.find_eraseCell_same {α : Type} (a : Nat) :
    ∀ {lo : Nat} {l : List (Nat × α)}, Mem.rising lo l = true → Mem.find (Mem.eraseCell a l) a = none
  | _, [], _ => rfl
  | lo, (a', v') :: rest, hl => by
    simp only [Mem.rising, Bool.and_eq_true, decide_eq_true_eq] at hl
    simp only [Mem.eraseCell]
    split
    · exact Mem.find_below (by omega) hl.2
    · split
      · simp only [Mem.find]; rw [if_neg (by omega), if_pos (by omega)]
      · simp only [Mem.find]
        rw [if_neg (by assumption), if_neg (by assumption)]
        exact Mem.find_eraseCell_same a hl.2

theorem Mem.find_eraseCell_other {α : Type} {a b : Nat} (h : b ≠ a) :
    ∀ {lo : Nat} {l : List (Nat × α)}, Mem.rising lo l = true → Mem.find (Mem.eraseCell a l) b = Mem.find l b
  | _, [], _ => rfl
  | lo, (a', v') :: rest, hl => by
    simp only [Mem.rising, Bool.and_eq_true, decide_eq_true_eq] at hl
    simp only [Mem.eraseCell]
    split
    · rename_i heq
      subst heq
      simp only [Mem.find]
      rw [if_neg h]
      split
      · exact Mem.find_below (by omega) hl.2
      · rfl
    · split
      · rfl
      · simp only [Mem.find, Mem.find_eraseCell_other h hl.2]

theorem Mem.rising_insertCell {α : Type} (a : Nat) (v : α) :
    ∀ {lo : Nat} {l : List (Nat × α)}, lo ≤ a → Mem.rising lo l = true → Mem.rising lo (Mem.insertCell a v l) = true
  | lo, [], h, _ => by simp [Mem.insertCell, Mem.rising, h]
  | lo, (a', v') :: rest, h, hl => by
    simp only [Mem.rising, Bool.and_eq_true, decide_eq_true_eq] at hl
    simp only [Mem.insertCell]
    split
    · simp only [Mem.rising, Bool.and_eq_true, decide_eq_true_eq]
      exact ⟨h, by omega, hl.2⟩
    · split
      · rename_i heq
        subst heq
        simp only [Mem.rising, Bool.and_eq_true, decide_eq_true_eq]
        exact ⟨h, hl.2⟩
      · simp only [Mem.rising, Bool.and_eq_true, decide_eq_true_eq]
        exact ⟨hl.1, Mem.rising_insertCell a v (by omega) hl.2⟩

theorem Mem.rising_eraseCell {α : Type} (a : Nat) :
    ∀ {lo : Nat} {l : List (Nat × α)}, Mem.rising lo l = true → Mem.rising lo (Mem.eraseCell a l) = true
  | _, [], _ => rfl
  | lo, (a', v') :: rest, hl => by
    have hl' := hl
    simp only [Mem.rising, Bool.and_eq_true, decide_eq_true_eq] at hl
    simp only [Mem.eraseCell]
    split
    · exact Mem.rising_mono (by omega) hl.2
    · split
      · exact hl'
      · simp only [Mem.rising, Bool.and_eq_true, decide_eq_true_eq]
        exact ⟨hl.1, Mem.rising_eraseCell a hl.2⟩

theorem Mem.mem_insertCell {α : Type} {a : Nat} {v : α} {c : Nat × α} :
    ∀ {l : List (Nat × α)}, c ∈ Mem.insertCell a v l → c = (a, v) ∨ c ∈ l
  | [], h => by simpa [Mem.insertCell] using h
  | (a', v') :: rest, h => by
    simp only [Mem.insertCell] at h
    split at h
    · simpa using h
    · split at h
      · rcases List.mem_cons.mp h with h | h
        · exact .inl h
        · exact .inr (List.mem_cons_of_mem _ h)
      · rcases List.mem_cons.mp h with h | h
        · exact .inr (by simp [h])
        · exact (Mem.mem_insertCell h).imp id (List.mem_cons_of_mem _)

theorem Mem.mem_eraseCell {α : Type} {a : Nat} {c : Nat × α} :
    ∀ {l : List (Nat × α)}, c ∈ Mem.eraseCell a l → c ∈ l
  | [], h => h
  | (a', v') :: rest, h => by
    simp only [Mem.eraseCell] at h
    split at h
    · exact List.mem_cons_of_mem _ h
    · split at h
      · exact h
      · rcases List.mem_cons.mp h with h | h
        · simp [h]
        · exact List.mem_cons_of_mem _ (Mem.mem_eraseCell h)

/-! ### Memories -/

variable {α : Type} [DecidableEq α]

@[simp] theorem Mem.set_fill (m : Mem α) (a : Nat) (v : α) : (m.set a v).fill = m.fill := by
  obtain ⟨fill, cells⟩ := m
  cases fill
  · simp only [Mem.set]; split <;> rfl
  · rfl

theorem Mem.wf_rising {m : Mem α} (h : m.wf = true) : Mem.rising 0 m.cells = true := by
  simp only [Mem.wf, Bool.and_eq_true] at h
  exact h.1

/-- A read after a write to the same cell gives the value written (R61, R77). -/
theorem Mem.get_set_same (free : Nat → Nat → α) {m : Mem α} (a : Nat) (v : α) (h : m.wf = true) :
    (m.set a v).get free a = v := by
  have hr := Mem.wf_rising h
  obtain ⟨fill, cells⟩ := m
  cases fill with
  | all u =>
    simp only [Mem.set]
    split
    · rename_i hv
      subst hv
      simp only [Mem.get, Mem.find_eraseCell_same a hr]
    · simp only [Mem.get, Mem.find_insertCell_same]
  | unspecified g => simp only [Mem.set, Mem.get, Mem.find_insertCell_same]

/-- A write leaves every other cell alone (R61, R77). -/
theorem Mem.get_set_other (free : Nat → Nat → α) {m : Mem α} {a b : Nat} (v : α) (hb : b ≠ a) (h : m.wf = true) :
    (m.set a v).get free b = m.get free b := by
  have hr := Mem.wf_rising h
  obtain ⟨fill, cells⟩ := m
  cases fill with
  | all u =>
    simp only [Mem.set]
    split
    · simp only [Mem.get, Mem.find_eraseCell_other hb hr]
    · simp only [Mem.get, Mem.find_insertCell_other v hb]
  | unspecified g => simp only [Mem.set, Mem.get, Mem.find_insertCell_other v hb]

/-- A write keeps the canonical form. -/
theorem Mem.wf_set {m : Mem α} (a : Nat) (v : α) (h : m.wf = true) : (m.set a v).wf = true := by
  obtain ⟨fill, cells⟩ := m
  cases fill with
  | all u =>
    simp only [Mem.wf, Bool.and_eq_true, List.all_eq_true, decide_eq_true_eq] at h
    simp only [Mem.set]
    split
    · simp only [Mem.wf, Bool.and_eq_true, List.all_eq_true, decide_eq_true_eq]
      exact ⟨Mem.rising_eraseCell a h.1, fun c hc => h.2 c (Mem.mem_eraseCell hc)⟩
    · rename_i hv
      simp only [Mem.wf, Bool.and_eq_true, List.all_eq_true, decide_eq_true_eq]
      refine ⟨Mem.rising_insertCell a v (Nat.zero_le _) h.1, fun c hc => ?_⟩
      rcases Mem.mem_insertCell hc with rfl | hc
      · exact hv
      · exact h.2 c hc
  | unspecified g =>
    simp only [Mem.wf, Bool.and_true] at h
    simp only [Mem.set, Mem.wf, Bool.and_true]
    exact Mem.rising_insertCell a v (Nat.zero_le _) h

/-- A write inside the bound keeps every listed address inside it. -/
theorem Mem.below_set {m : Mem α} {bound a : Nat} (v : α) (ha : a < bound) (h : m.below bound = true) :
    (m.set a v).below bound = true := by
  obtain ⟨fill, cells⟩ := m
  simp only [Mem.below, List.all_eq_true, decide_eq_true_eq] at h
  have hins : ∀ c ∈ Mem.insertCell a v cells, c.1 < bound := fun c hc => by
    rcases Mem.mem_insertCell hc with rfl | hc
    · exact ha
    · exact h c hc
  cases fill with
  | all u =>
    simp only [Mem.set]
    split
    · simp only [Mem.below, List.all_eq_true, decide_eq_true_eq]
      exact fun c hc => h c (Mem.mem_eraseCell hc)
    · simpa only [Mem.below, List.all_eq_true, decide_eq_true_eq] using hins
  | unspecified g => simpa only [Mem.set, Mem.below, List.all_eq_true, decide_eq_true_eq] using hins

/-- Writes of consecutive cells keep the canonical form. -/
theorem Mem.wf_setList : ∀ (l : List α) {m : Mem α} (a : Nat), m.wf = true → (m.setList a l).wf = true
  | [], _, _, h => h
  | v :: rest, _, a, h => Mem.wf_setList rest (a + 1) (Mem.wf_set a v h)

/-- Writes of consecutive cells inside the bound keep every listed address inside it. -/
theorem Mem.below_setList : ∀ (l : List α) {m : Mem α} {bound : Nat} (a : Nat), a + l.length ≤ bound →
    m.below bound = true → (m.setList a l).below bound = true
  | [], _, _, _, _, h => h
  | v :: rest, _, _, a, hb, h =>
    Mem.below_setList rest (a + 1) (by simp only [List.length_cons] at hb; omega)
      (Mem.below_set v (by simp only [List.length_cons] at hb; omega) h)

omit [DecidableEq α] in
/-- A memory with nothing listed reads as the free values of its generation (U10). -/
theorem Mem.get_unspecified (free : Nat → Nat → α) (g a : Nat) : (Mem.unspecified g).get free a = free g a := rfl

/-- The memories after reset are in canonical form. -/
theorem Mem.wf_unspecified (g : Nat) : (Mem.unspecified g : Mem α).wf = true := rfl

/-- A push keeps the window's memory in canonical form. -/
theorem Sw.wf_push (w : Sw) (b : Byte) (h : w.win.wf = true) : (w.push b).win.wf = true := Mem.wf_set _ b h

/-- A sequence of pushes keeps the window's memory in canonical form. -/
theorem Sw.wf_pushAll : ∀ (bytes : List Byte) (w : Sw), w.win.wf = true → (w.pushAll bytes).win.wf = true
  | [], _, h => h
  | b :: rest, w, h => Sw.wf_pushAll rest (w.push b) (Sw.wf_push w b h)

/-- A copy keeps the window's memory in canonical form. -/
theorem Sw.wf_copyLoop (d : Nat) : ∀ (l : Nat) (w : Sw), w.win.wf = true → (Sw.copyLoop d l w).win.wf = true
  | 0, _, h => h
  | l + 1, w, h => Sw.wf_copyLoop d l _ (Sw.wf_push w _ h)

/-- `HC_STAGE` and the BlockCodec's staging keep `STG` in canonical form. -/
theorem State.wf_stage (s : State) (a : Nat) (l : List Nat) (h : s.hc.stg.wf = true) : (s.stage a l).hc.stg.wf = true :=
  Mem.wf_setList _ a h

/-- An insertion keeps `MFH` and `MFP` in canonical form. -/
theorem Mf.wf_insert (P : Config.Params) (m : Mf) (q : Nat) (h : m.mfh.wf = true ∧ m.mfp.wf = true) :
    (m.insert P q).mfh.wf = true ∧ (m.insert P q).mfp.wf = true := by
  unfold Mf.insert
  split
  · exact h
  · exact ⟨Mem.wf_set _ _ h.1, Mem.wf_set _ _ h.2⟩

/-! ### The counter check and the sequencing of pieces -/

/-- A command that ends with the counter check answers its state or is refused for the counters (U9). -/
theorem State.finish_next {s t : State} : s.finish = .next t ↔ s.countersFit = true ∧ t = s := by
  unfold State.finish
  split
  · rename_i h
    constructor
    · intro e
      injection e with e
      exact ⟨h, e.symm⟩
    · rintro ⟨-, rfl⟩
      rfl
  · rename_i h
    constructor
    · intro e
      cases e
    · rintro ⟨h', -⟩
      exact absurd h' h

/-- The only refusal of the counter check. -/
theorem State.finish_cases (s : State) : s.finish = .next s ∨ s.finish = .refused .counterOverflow := by
  unfold State.finish
  split
  · exact .inl rfl
  · exact .inr rfl

/-- The counter check looks at counters only: a response does not change it. -/
@[simp] theorem State.countersFit_respond (s : State) (r : Response) : (s.respond r).countersFit = s.countersFit := rfl

/-- How a sequence of two pieces ends well: the first did, and the second did after it. -/
theorem Res.andThen_ok {α β : Type} {r : Res α} {k : α → State → Res β} {b : β} {t : State} :
    r.andThen k = .ok b t ↔ ∃ a s, r = .ok a s ∧ k a s = .ok b t := by
  cases r <;> simp [Res.andThen]

/-- How a sequence of two pieces holds. -/
theorem Res.andThen_hold {α β : Type} {r : Res α} {k : α → State → Res β} {t : State} :
    r.andThen k = .hold t ↔ r = .hold t ∨ ∃ a s, r = .ok a s ∧ k a s = .hold t := by
  cases r <;> simp [Res.andThen]

/-- How a sequence of two pieces raises. -/
theorem Res.andThen_raise {α β : Type} {r : Res α} {k : α → State → Res β} {f : Raised} {t : State} :
    r.andThen k = .raise f t ↔ r = .raise f t ∨ ∃ a s, r = .ok a s ∧ k a s = .raise f t := by
  cases r <;> simp [Res.andThen]

/-- A field the source cannot supply holds while the end is not marked, and raises once it is (R148, R344). -/
theorem State.starve_cases {α : Type} (s : State) (missing : Nat) :
    (s.bk.last = true ∧ (s.starve missing : Res α) = .raise (endOfInput missing) s) ∨
      (s.bk.last = false ∧ (s.starve missing : Res α) = .hold s) := by
  unfold State.starve
  cases h : s.bk.last <;> simp

/-! ### The window and the vocabulary of a decode session -/

@[simp] theorem pushAll_nil (w : Sw) : w.pushAll [] = w := rfl
@[simp] theorem pushAll_cons (w : Sw) (b : Byte) (rest : List Byte) : w.pushAll (b :: rest) = (w.push b).pushAll rest := rfl

theorem pushAll_append (w : Sw) (xs ys : List Byte) : w.pushAll (xs ++ ys) = (w.pushAll xs).pushAll ys := by
  simp [Sw.pushAll]

@[simp] theorem pushAll_cap (w : Sw) (bytes : List Byte) : (w.pushAll bytes).cap = w.cap := by
  induction bytes generalizing w with
  | nil => rfl
  | cons b rest ih => simp [ih, Sw.push]

@[simp] theorem pushAll_cursor (w : Sw) (bytes : List Byte) : (w.pushAll bytes).cursor = w.cursor + bytes.length := by
  induction bytes generalizing w with
  | nil => rfl
  | cons b rest ih => simp [ih, Sw.push, Nat.add_assoc, Nat.add_comm]

@[simp] theorem afterField_bk (s : State) (n : Nat) : (s.afterField n).bk = s.bk := rfl
@[simp] theorem afterField_hc (s : State) (n : Nat) : (s.afterField n).hc = s.hc := rfl
@[simp] theorem afterField_sw (s : State) (n : Nat) : (s.afterField n).sw = s.sw := rfl
@[simp] theorem afterField_sink (s : State) (n : Nat) : (s.afterField n).port.sink = s.port.sink := rfl
@[simp] theorem afterField_total (s : State) (n : Nat) : (s.afterField n).bc.total = s.bc.total + n := rfl
@[simp] theorem afterFetch_total (s : State) (n : Nat) : (s.afterFetch n).bc.total = s.bc.total := rfl

end Sys2Proof.Machine
end

