-- ==== Sys2Proof/Laws/PerInstr.lean ====
section
/-! SUPPORT. Statements made per command: one lemma per constructor of Instr. -/

namespace Sys2Proof.Laws.OpcodeRead

/-- The opcode field of a command's word is the command's opcode (R91, R92). -/
def Statement (i : Instr) : Prop := opOf (encode i) = i.opcode

theorem opOf_commandWord (op : BitVec 8) (a b : Word) : opOf (commandWord op a b) = op := by
  simp only [opOf, commandWord]
  apply BitVec.eq_of_getLsbD_eq
  intro i hi
  simp only [BitVec.getLsbD_extractLsb', BitVec.getLsbD_append]
  rw [if_neg (by omega), if_neg (by omega)]
  simp [hi, show 64 + i - 32 - 32 = i by omega]

theorem regRead (number : BitVec 8) : Statement (.regRead number) := opOf_commandWord _ _ _
theorem coreReset : Statement .coreReset := opOf_commandWord _ _ _
theorem bcInit (mode : Mode) (order : Order) : Statement (.bcInit mode order) := opOf_commandWord _ _ _
theorem bcWriteBits (value : Word) (count : BitVec 6) : Statement (.bcWriteBits value count) := opOf_commandWord _ _ _
theorem bcReadBits (count : BitVec 6) : Statement (.bcReadBits count) := opOf_commandWord _ _ _
theorem bcPeekBits (count : BitVec 6) : Statement (.bcPeekBits count) := opOf_commandWord _ _ _
theorem bcAlign : Statement .bcAlign := opOf_commandWord _ _ _
theorem bcFlush : Statement .bcFlush := opOf_commandWord _ _ _
theorem bcClose : Statement .bcClose := opOf_commandWord _ _ _
theorem swInit (capacity : BitVec 17) : Statement (.swInit capacity) := opOf_commandWord _ _ _
theorem swPush (byte : Byte) : Statement (.swPush byte) := opOf_commandWord _ _ _
theorem swGet (offset : Word) : Statement (.swGet offset) := opOf_commandWord _ _ _
theorem swCopy (distance length : Word) : Statement (.swCopy distance length) := opOf_commandWord _ _ _
theorem hcStage (index : BitVec 9) (value : Word) : Statement (.hcStage index value) := opOf_commandWord _ _ _
theorem hcBuildFreq (slot : BitVec 4) (n : BitVec 9) (limit : BitVec 4) : Statement (.hcBuildFreq slot n limit) := opOf_commandWord _ _ _
theorem hcBuildLen (slot : BitVec 4) (n : BitVec 9) (limit : BitVec 4) : Statement (.hcBuildLen slot n limit) := opOf_commandWord _ _ _
theorem hcEncode (slot : BitVec 4) (symbol : BitVec 9) : Statement (.hcEncode slot symbol) := opOf_commandWord _ _ _
theorem hcDecode (slot : BitVec 4) : Statement (.hcDecode slot) := opOf_commandWord _ _ _
theorem hcDiscard (slot : BitVec 4) : Statement (.hcDiscard slot) := opOf_commandWord _ _ _
theorem mfInit (level : BitVec 4) : Statement (.mfInit level) := opOf_commandWord _ _ _
theorem mfRun (last : Bool) : Statement (.mfRun last) := opOf_commandWord _ _ _
theorem mfToken (index : Word) : Statement (.mfToken index) := opOf_commandWord _ _ _
theorem bkInit (direction : Direction) (level : BitVec 4) : Statement (.bkInit direction level) := opOf_commandWord _ _ _
theorem bkCompress (level : BitVec 4) : Statement (.bkCompress level) := opOf_commandWord _ _ _
theorem bkDecompress : Statement .bkDecompress := opOf_commandWord _ _ _
theorem bkFeed (last : Bool) (outCap : Word) : Statement (.bkFeed last outCap) := opOf_commandWord _ _ _

end Sys2Proof.Laws.OpcodeRead
end

