-- ==== Sys2Proof/Tests/Slice0.lean ====
section
/-! SUPPORT. The package's own tests: decoding of words written out from the spec's encodings, the operand-range check, one
small step per command with the result spec/95_test_vectors.md or the command's rule gives, and a witness for the
hypotheses of every statement. -/

namespace Sys2Proof.Tests

-- One theorem at a time: checked side by side, these theorems take more thread stacks than the check's limit allows.
set_option Elab.async false

open Sys2Proof Sys2Proof.Machine

/-! ### Decoding (R91, R92): op, a, b of every word written out by hand -/

theorem test_decode_REG_READ : decode 0x010000003000000000 = .ok (.regRead 0x30) := by decide
theorem test_decode_CORE_RESET : decode 0x020000000000000000 = .ok .coreReset := by decide
theorem test_decode_BC_INIT : decode 0x100000000200000000 = .ok (.bcInit .read .msbFirst) := by decide
theorem test_decode_BC_WRITE_BITS : decode 0x1100000ABC0000000C = .ok (.bcWriteBits 0xABC 12) := by decide
theorem test_decode_BC_READ_BITS : decode 0x120000000000000020 = .ok (.bcReadBits 32) := by decide
theorem test_decode_BC_PEEK_BITS : decode 0x130000000000000005 = .ok (.bcPeekBits 5) := by decide
theorem test_decode_BC_ALIGN_ignores_operands : decode 0x14FFFFFFFFFFFFFFFF = .ok .bcAlign := by decide
theorem test_decode_BC_FLUSH : decode 0x150000000000000000 = .ok .bcFlush := by decide
theorem test_decode_BC_CLOSE : decode 0x160000000000000000 = .ok .bcClose := by decide
theorem test_decode_SW_INIT : decode 0x200001000000000000 = .ok (.swInit 65536) := by decide
theorem test_decode_SW_PUSH : decode 0x210000014800000000 = .ok (.swPush 0x48) := by decide
theorem test_decode_SW_GET : decode 0x220000000100000000 = .ok (.swGet 1) := by decide
theorem test_decode_SW_COPY : decode 0x230000000200000004 = .ok (.swCopy 2 4) := by decide
theorem test_decode_HC_STAGE : decode 0x300000013F00000007 = .ok (.hcStage 319 7) := by decide
theorem test_decode_HC_BUILD_FREQ : decode 0x310001200200000007 = .ok (.hcBuildFreq 2 288 7) := by decide
theorem test_decode_HC_BUILD_LEN : decode 0x32000004010000000F = .ok (.hcBuildLen 1 4 15) := by decide
theorem test_decode_HC_ENCODE : decode 0x33000000030000011F = .ok (.hcEncode 3 287) := by decide
theorem test_decode_HC_DECODE : decode 0x340000000400000000 = .ok (.hcDecode 4) := by decide
theorem test_decode_HC_DISCARD : decode 0x350000000200000000 = .ok (.hcDiscard 2) := by decide
theorem test_decode_MF_INIT : decode 0x400000000600000000 = .ok (.mfInit 6) := by decide
theorem test_decode_MF_RUN : decode 0x410000000000000001 = .ok (.mfRun true) := by decide
theorem test_decode_MF_TOKEN : decode 0x420000000100000000 = .ok (.mfToken 1) := by decide
theorem test_decode_BK_INIT : decode 0x500000006100000000 = .ok (.bkInit .encode 6) := by decide
theorem test_decode_BK_COMPRESS : decode 0x510000000100000000 = .ok (.bkCompress 1) := by decide
theorem test_decode_BK_DECOMPRESS : decode 0x520000000000000000 = .ok .bkDecompress := by decide
theorem test_decode_BK_FEED : decode 0x530000000100000064 = .ok (.bkFeed true 100) := by decide

/-- Reserved opcodes at the edges of the map (R97). -/
theorem test_decode_reserved : ∀ op ∈ [0x00#8, 0x03#8, 0x0F#8, 0x17#8, 0x24#8, 0x36#8, 0x43#8, 0x54#8, 0x60#8, 0xFF#8],
    decode (commandWord op 0 0) = .error (.reservedOpcode op) := by decide

/-- The table's word form: 72 bits, the opcode in the top byte. -/
theorem test_decodeTableWord : decodeTableWord 72 0x230000000200000004 = some (.swCopy 2 4) := by decide
theorem test_decodeTableWord_reserved : decodeTableWord 72 0x540000000000000000 = none := by decide

/-! ### The operand-range check: an ill-formed term for each check -/

theorem test_illFormed : ∀ i ∈ [Instr.regRead 0x02, .regRead 0x18, .regRead 0x3D, .regRead 0x47, .regRead 0x5E,
    .bcWriteBits 0 33, .bcReadBits 33, .bcPeekBits 63, .swInit 4095, .swInit 65537, .hcStage 320 0,
    .hcBuildFreq 3 4 15, .hcBuildFreq 0 1 15, .hcBuildFreq 0 289 15, .hcBuildFreq 0 4 0,
    .hcBuildLen 4 4 15, .hcBuildLen 0 1 15, .hcBuildLen 0 289 15, .hcBuildLen 0 4 0,
    .hcEncode 5 0, .hcDecode 5, .hcDiscard 3, .mfInit 10, .bkInit .encode 10, .bkCompress 10],
    i.wellFormed = false := by decide

theorem test_wellFormed : ∀ i ∈ [Instr.regRead 0x5D, .bcWriteBits 0 32, .swInit 4096, .swInit 65536, .hcStage 319 0,
    .hcBuildFreq 2 288 1, .hcBuildLen 0 2 15, .hcEncode 4 511, .hcDecode 0, .hcDiscard 2, .mfInit 9, .bkInit .decode 15,
    .bkInit .encode 9, .bkCompress 0, .bkFeed true 0], i.wellFormed = true := by decide

/-! ### Small states and readings -/

/-- The state an outcome answers. -/
def after (o : Host.Outcome State Fault Refusal) : Option State :=
  match o with
  | .next s => some s
  | .fault _ => none
  | .refused _ => none

theorem next_of_isSome {o : Host.Outcome State Fault Refusal} (h : (after o).isSome = true) : ∃ t, o = .next t := by
  cases o with
  | next s => exact ⟨s, rfl⟩
  | fault f => simp [after] at h
  | refused r => simp [after] at h

/-- The response of a command. -/
def answer (i : Instr) (s : State) : Option Response := (after (exec i s)).bind State.lastResponse

/-- The sink after commands. -/
def sinkAfter (l : List Instr) (s : State) : Option (List Byte) := (after (execAll l s)).map fun t => t.port.sink

/-- Reset with bytes at the source. -/
def given (src : List Byte) : State := { State.reset with port := { Port.empty with src := src } }

/-- A fresh channel in a mode and an order, bytes at the source. -/
def channel (mode : Mode) (order : Order) (src : List Byte) : State := { given src with bc := Bc.init mode order }

/-- The writing channel of R144's example, 5 bits pending. -/
def fivePending (order : Order) : State :=
  { channel .write order [] with bc := { Bc.init .write order with acc := 0x1F, nbits := 5, total := 5 } }

/-- The window of R172's example: "Hi" in 4096 bytes. -/
def window : State :=
  { State.reset with sw := { cap := 4096, cursor := 2, win := { fill := .unspecified 0, cells := [(0, 0x48), (1, 0x69)] } } }

/-- A staged array. -/
def staged (l : List Nat) : State := State.reset.stage 0 l

/-- The table of the lengths 2, 1, 3, 3 (R206). -/
def table2133 : Table := { valid := true, n := 4, limit := 15, maxlen := 3, len := [2, 1, 3, 3], code := [2, 0, 6, 7] }

/-- That table in slot 0, a fresh reading channel and bytes at the source. -/
def decoding (src : List Byte) : State := (channel .read .lsbFirst src).setTable 0 table2133

/-- A MatchFinder just created at a level, bytes at the source. -/
def finder (level : Nat) (src : List Byte) : State := (given src).mfInit params level

/-- A session just opened, bytes at the source. -/
def session (dir : Direction) (level : Nat) (src : List Byte) : State := (given src).startSession params dir level

/-- A decode session inside a stored block with 3 bytes to come. -/
def inStored (src : List Byte) : State :=
  let s := session .decode 0 src
  { s with bk := { s.bk with phase := .storedCopy, storedRem := 3 } }

/-! ### One step per command -/

theorem test_REG_READ_valid : answer (.regRead 0x30) State.reset = some (okResponse 0x18 0) := by decide +kernel
theorem test_REG_READ_state : answer (.regRead 0x50) (session .encode 6 []) = some (okResponse 0x6110 0) := by
  decide +kernel
theorem test_CORE_RESET_abandons :
    (after (exec .coreReset (session .encode 6 [1, 2]))).map (fun t => (t.bk.phase, t.bc.opened, t.port.src)) =
      some (.idle, false, [1, 2]) := by decide +kernel
theorem test_BC_INIT_cfg : (after (exec (.bcInit .write .lsbFirst) State.reset)).map (fun t => registerWord t 0x10) =
    some 0x5 := by decide +kernel
theorem test_BC_WRITE_BITS_lsb : sinkAfter [.bcWriteBits 0xABC 12] (fivePending .lsbFirst) = some [0x9f, 0x57] := by
  decide +kernel
theorem test_BC_WRITE_BITS_msb : sinkAfter [.bcWriteBits 0xABC 12] (fivePending .msbFirst) = some [0xf9, 0xea] := by
  decide +kernel
theorem test_BC_READ_BITS : answer (.bcReadBits 5) (channel .read .lsbFirst [0x9f, 0x57, 0x01]) = some (okResponse 0x1F 0) := by
  decide +kernel
theorem test_BC_READ_BITS_short : answer (.bcReadBits 11) (channel .read .lsbFirst [0x4b]) = some (errorResponse 1 3) := by
  decide +kernel
theorem test_BC_PEEK_BITS : answer (.bcPeekBits 12) (channel .read .msbFirst [0xf9, 0xea, 0x80]) = some (okResponse 0x79F 0) := by
  decide +kernel
theorem test_BC_ALIGN_write : answer .bcAlign (fivePending .lsbFirst) = some (okResponse 3 0) := by decide +kernel
theorem test_BC_ALIGN_read :
    (after (execAll [.bcReadBits 3, .bcAlign, .bcReadBits 8] (channel .read .lsbFirst [0x4b, 0xff]))).map
      (fun t => (t.port.responses, t.bc.total)) = some ([okResponse 3 0, okResponse 5 0, okResponse 0xFF 0], 16) := by
  decide +kernel
theorem test_BC_FLUSH : sinkAfter [.bcWriteBits 0xABC 12, .bcFlush] (fivePending .lsbFirst) = some [0x9f, 0x57, 0x01] := by
  decide +kernel
theorem test_BC_CLOSE : sinkAfter [.bcWriteBits 0x5 3, .bcClose] (channel .write .lsbFirst []) = some [0x05] := by
  decide +kernel
theorem test_SW_INIT : answer (.swInit 4095) State.reset = some (errorResponse 6 4095) := by decide +kernel
theorem test_SW_PUSH : (after (exec (.swPush 0x21) window)).map (fun t => (t.sw.back 1, t.sw.back 2, t.sw.cursor)) =
    some (0x21, 0x69, 3) := by decide +kernel
theorem test_SW_GET : (answer (.swGet 2) window, answer (.swGet 3) window, answer (.swGet 0) window) =
    (some (okResponse 0x48 0), some (errorResponse 3 3), some (errorResponse 3 0)) := by decide +kernel
theorem test_SW_COPY : (after (exec (.swCopy 2 4) window)).map (fun t => (t.sw.cursor, t.sw.win.cells.map Prod.snd)) =
    some (6, [0x48, 0x69, 0x48, 0x69, 0x48, 0x69]) := by decide +kernel
theorem test_SW_COPY_distance_first : answer (.swCopy 3 0) window = some (errorResponse 3 3) := by decide +kernel
theorem test_HC_STAGE : (after (exec (.hcStage 319 7) State.reset)).map (fun t => t.staged 319) = some 7 := by decide +kernel
theorem test_HC_BUILD_FREQ_ties : (after (exec (.hcBuildFreq 0 4 15) (staged [1, 1, 2, 2]))).map (fun t => (t.table 0).len) =
    some [2, 2, 2, 2] := by decide +kernel
theorem test_HC_BUILD_FREQ_limited :
    (after (exec (.hcBuildFreq 0 5 3) (staged [1, 2, 4, 8, 16]))).map (fun t => ((t.table 0).len, (t.table 0).code)) =
      some ([3, 3, 3, 3, 1], [4, 5, 6, 7, 0]) := by decide +kernel
theorem test_HC_BUILD_LEN : (after (exec (.hcBuildLen 0 4 15) (staged [2, 1, 3, 3]))).map (fun t => t.table 0) =
    some table2133 := by decide +kernel
theorem test_HC_BUILD_LEN_oversubscribed : answer (.hcBuildLen 1 3 2) (staged [1, 1, 1]) = some (errorResponse 5 6) := by
  decide +kernel
theorem test_HC_ENCODE : answer (.hcEncode 0 2) (decoding []) = some (okResponse 6 3) := by decide +kernel
theorem test_HC_DECODE : (after (execAll [.hcDecode 0, .hcDecode 0, .hcDecode 0, .hcDecode 0] (decoding [0xda, 0x01]))).map
    (fun t => (t.port.responses.map fun r => (r.r0, r.r1), t.bc.total)) =
      some ([(1, 1), (0, 2), (2, 3), (3, 3)], 9) := by decide +kernel
theorem test_HC_DISCARD : (after (exec (.hcDiscard 0) (decoding []))).map (fun t => (t.table 0).valid) = some false := by
  decide +kernel
theorem test_MF_INIT_effort : (after (exec (.mfInit 6) State.reset)).map (fun t => (registerWord t 0x43, registerWord t 0x20)) =
    some (0x00100080, 0x8000) := by decide +kernel
theorem test_MF_RUN : (after (exec (.mfRun true) (finder 1 (List.replicate 10 0x61)))).map (fun t => t.mf.tok) =
    some [0x00000061, 0x80120001] := by decide +kernel
theorem test_MF_TOKEN : answer (.mfToken 0) { finder 1 [] with mf := { (finder 1 []).mf with tok := [0x80120001] } } =
    some (okResponse 0x80120001 0) := by decide +kernel
theorem test_BK_INIT_decode : (after (exec (.bkInit .decode 15) State.reset)).map (fun t => (t.bk.phase, registerWord t 0x10)) =
    some (.header, 0x4) := by decide +kernel
theorem test_BK_COMPRESS : sinkAfter [.bkCompress 1] (given [0x61]) = some [0x4b, 0x04, 0x00] := by decide +kernel
theorem test_BK_COMPRESS_level0 : sinkAfter [.bkCompress 0] (given [0x61]) = some [0x01, 0x01, 0x00, 0xfe, 0xff, 0x61] := by
  decide +kernel
theorem test_BK_DECOMPRESS : sinkAfter [.bkDecompress] (given [0x4b, 0x84, 0x03, 0x00]) = some (List.replicate 10 0x61) := by
  decide +kernel
theorem test_BK_DECOMPRESS_distance :
    (after (exec .bkDecompress (given [0x03, 0x02]))).map (fun t => (t.err.kind, t.err.unit, t.err.info, t.bk.phase)) =
      some (3, 5, 1, .fault) := by decide +kernel
theorem test_BK_FEED_needs_input : (answer (.bkFeed false 100) (session .decode 0 [0x4b])).map (fun r => (r.aux, r.r0, r.r1)) =
    some (1, 1, 0) := by decide +kernel
theorem test_BK_FEED_encode : (answer (.bkFeed true 2) (session .encode 1 (List.replicate 10 0x61))).map
    (fun r => (r.aux, r.r0, r.r1)) = some (2, 10, 2) := by decide +kernel

/-- A word placed by the host runs as the very next step. -/
theorem test_withFetchWord : after (step (State.reset.withFetchWord 72 0x200000100000000000)) =
    after (exec (.swInit 4096) State.reset) := by decide +kernel

/-! ### The invariant holds in the states the witnesses use -/

theorem reset_invariant : State.reset.Inv where
  channel := by decide
  window := ⟨by decide, by decide, by decide, by decide, by decide⟩
  staging := by decide
  heads := by decide
  links := by decide
  slots := by decide
  finder := by decide
  decodes := by decide
  encodes := by decide
  running := by decide
  decoder := ⟨by decide, by decide, by decide, by decide, by decide, by decide, by decide, by decide, by decide⟩

theorem reset_widths : State.reset.Widths := ⟨by decide, by decide, by decide, by decide, by decide, by decide⟩

theorem next_of_any {o : Host.Outcome State Fault Refusal} {p : State → Bool} (h : (after o).any p = true) :
    ∃ t, o = .next t ∧ p t = true := by
  cases o <;> simp_all [after]

theorem given_invariant (src : List Byte) : (given src).Inv where
  channel := reset_invariant.channel
  window := reset_invariant.window
  staging := reset_invariant.staging
  heads := reset_invariant.heads
  links := reset_invariant.links
  slots := reset_invariant.slots
  finder := reset_invariant.finder
  decodes := reset_invariant.decodes
  encodes := reset_invariant.encodes
  running := reset_invariant.running
  decoder := ⟨reset_invariant.decoder.dynamic, reset_invariant.decoder.counts, reset_invariant.decoder.clIndex,
    reset_invariant.decoder.lens, reset_invariant.decoder.tables, reset_invariant.decoder.lenSym,
    reset_invariant.decoder.length, reset_invariant.decoder.distSym, reset_invariant.decoder.copying⟩

theorem decode_session_invariant : (session .decode 0 [0x4b]).Inv where
  channel := by decide
  window := ⟨by decide, by decide, by decide, by decide, by decide⟩
  staging := by decide
  heads := by decide
  links := by decide
  slots := by decide
  finder := by decide
  decodes := by decide
  encodes := by decide
  running := by decide
  decoder := ⟨by decide, by decide, by decide, by decide, by decide, by decide, by decide, by decide, by decide⟩

theorem stored_session_invariant : (inStored [0x61, 0x62]).Inv where
  channel := by decide
  window := ⟨by decide, by decide, by decide, by decide, by decide⟩
  staging := by decide
  heads := by decide
  links := by decide
  slots := by decide
  finder := by decide
  decodes := by decide
  encodes := by decide
  running := by decide
  decoder := ⟨by decide, by decide, by decide, by decide, by decide, by decide, by decide, by decide, by decide⟩

theorem encode_session_invariant : (session .encode 1 [0x61]).Inv where
  channel := by decide
  window := ⟨by decide, by decide, by decide, by decide, by decide⟩
  staging := by decide
  heads := by decide
  links := by decide
  slots := by decide
  finder := by decide
  decodes := by decide
  encodes := by decide
  running := by decide
  decoder := ⟨by decide, by decide, by decide, by decide, by decide, by decide, by decide, by decide, by decide⟩

theorem table2133_complete : table2133.Complete := ⟨by decide, by decide, by decide, by decide⟩

/-! ### Witnesses: for every statement with hypotheses, states and operands that meet them, clause by clause -/

theorem witness_EncodeRestoresUsedBits :
    decode 0x14FFFFFFFFFFFFFFFF = .ok .bcAlign ∧
      0x14000000000000000A#72 &&& usedBits (opOf 0x14FFFFFFFFFFFFFFFF) =
        0x14FFFFFFFFFFFFFFFF#72 &&& usedBits (opOf 0x14FFFFFFFFFFFFFFFF) := by decide

theorem witness_ReservedEncodingsAreMisuse :
    opOf (commandWord 0x54 0 0) ∉ definedOpcodes ∧ opOf (commandWord 0x60 0 0) ∉ definedOpcodes ∧
      (State.reset.withFetchWord 72 0x540000000000000000).port.script = .command (commandWord 0x54 0 0) :: [] ∧
      (Instr.hcStage 320 0).wellFormed = false := by decide

theorem witness_OffendingOperandIsRecorded :
    Instr.listedRegister (0x02#8).toNat = false ∧ State.reset.sessionOpen = false ∧ (4095#17).toNat < 4096 ∧
      65536 < (65537#17).toNat ∧ (decoding []).sessionOpen = false ∧ ((decoding []).table 0).valid = true ∧
      ((decoding []).table 0).n ≤ (4#9).toNat ∧ 9 < (10#4).toNat ∧ (finder 1 []).sessionOpen = false ∧
      (finder 1 []).mf.opened = true ∧ (finder 1 []).mf.tok.length ≤ (0#32).toNat := by decide

theorem witness_StepRunsDecodedCommand :
    (State.reset.withFetchWord 72 0x140000000000000000).port.script = .command 0x140000000000000000 :: [] ∧
      decode 0x140000000000000000 = .ok .bcAlign := by decide

theorem witness_HostActionsAndIdle :
    State.reset.port.script = [] ∧ (State.reset.setScript [.supply [1]]).port.script = .supply [1] :: [] ∧
      (State.reset.setScript [.resetInput]).port.script = .resetInput :: [] := by decide

theorem witness_ResetRegisterValues :
    Instr.listedRegister (0x00#8).toNat = true ∧ Instr.listedRegister (0x5D#8).toNat = true := by decide

theorem witness_StepKeepsInvariant :
    (session .decode 0 [0x4b]).Inv ∧
      ∃ t, step ((session .decode 0 [0x4b]).withFetchWord 72 0x530000000000000064) = .next t :=
  ⟨decode_session_invariant, next_of_isSome (by decide +kernel)⟩

theorem witness_StepNeverFaults : (session .decode 0 [0x4b]).Inv := decode_session_invariant

theorem witness_RegistersKeepTheirWidths : State.reset.Inv ∧ State.reset.Widths ∧ ∃ t, step State.reset = .next t :=
  ⟨reset_invariant, reset_widths, next_of_isSome (by decide +kernel)⟩

/-- Reset with a complete table in slot 0. -/
def tabled : State := State.reset.setTable 0 table2133

theorem tabled_invariant : tabled.Inv where
  channel := by decide
  window := ⟨by decide, by decide, by decide, by decide, by decide⟩
  staging := by decide
  heads := by decide
  links := by decide
  slots := by decide
  finder := by decide
  decodes := by decide
  encodes := by decide
  running := by decide
  decoder := ⟨by decide, by decide, by decide, by decide, by decide, by decide, by decide, by decide, by decide⟩

theorem witness_BuiltTablesStayComplete :
    tabled.Inv ∧ (tabled.table 0).valid = true ∧ (∀ k, k < 3 → (tabled.table k).valid = true → (tabled.table k).Complete) ∧
      ∃ t, step tabled = .next t := by
  refine ⟨tabled_invariant, by decide, fun k hk hv => ?_, next_of_isSome (by decide +kernel)⟩
  match k, hk with
  | 0, _ => exact table2133_complete
  | 1, _ => exact absurd hv (by decide)
  | 2, _ => exact absurd hv (by decide)

/-- The window with its cursor at a position. -/
def windowAt (cursor : Nat) : State := { window with sw := { window.sw with cursor := cursor } }

/-- A channel whose counter stands at a position, nothing pending. -/
def channelAt (mode : Mode) (total : Nat) (src : List Byte) : State :=
  { given src with bc := { Bc.init mode .lsbFirst with total := total, nbytes := total / 8 } }

theorem witness_CounterOverflowIsRefused :
    (windowAt (2 ^ 64 - 1)).WindowReady ∧ (windowAt (2 ^ 64 - 1)).sw.cursor + 1 = 2 ^ 64 ∧
      (windowAt (2 ^ 64 - 1)).sw.reaches (4096#32).toNat = true ∧
      2 ^ 64 ≤ (windowAt (2 ^ 64 - 1)).sw.cursor + (1#32).toNat ∧
      (channelAt .write (2 ^ 64 - 8) []).ChannelReady .write ∧ (channelAt .write (2 ^ 64 - 8) []).bc.flushed = false ∧
      2 ^ 64 ≤ (channelAt .write (2 ^ 64 - 8) []).bc.total + (8#6).toNat ∧
      (channelAt .read (2 ^ 64 - 8) [1]).ChannelReady .read ∧
      (8#6).toNat ≤ (channelAt .read (2 ^ 64 - 8) [1]).bc.nbits + 8 * (channelAt .read (2 ^ 64 - 8) [1]).port.src.length ∧
      2 ^ 64 ≤ (channelAt .read (2 ^ 64 - 8) [1]).bc.total + (8#6).toNat ∧
      (match exec (.swPush 0) (windowAt (2 ^ 64 - 1)) with
        | .refused r => decide (r = .counterOverflow)
        | .next _ => false
        | .fault _ => false) = true := by decide +kernel

theorem witness_ReadsAreIdempotent :
    (∃ t, exec (.swGet 1) window = .next t) ∧ (∃ t, exec (.hcEncode 3 0) State.reset = .next t) ∧
      (∃ t, exec (.mfToken 0) State.reset = .next t) ∧ (∃ t, exec (.regRead 0xFF) State.reset = .next t) ∧
      ∃ t, exec (.bcPeekBits 5) (channel .read .lsbFirst [1]) = .next t :=
  ⟨next_of_isSome (by decide +kernel), next_of_isSome (by decide +kernel), next_of_isSome (by decide +kernel),
    next_of_isSome (by decide +kernel), next_of_isSome (by decide +kernel)⟩

theorem witness_OneResponsePerCommand : ∃ t, exec .bcAlign State.reset = .next t := next_of_isSome (by decide +kernel)

theorem witness_ErrorRegistersAreSticky :
    exec .coreReset State.reset = .next (State.reset.coreReset.ok 0 0) ∧
      (State.reset.coreReset.ok 0 0).port.responses = State.reset.port.responses ++ [okResponse 0 0] ∧
      (okResponse 0 0).err = 0 ∧ Instr.coreReset.opcode ∈ [0x02#8, 0x50#8, 0x51#8, 0x52#8] ∧
      exec (.swGet 1) window = .next (window.ok 0x69 0) ∧
      Instr.opcode (.swGet 1) ∉ [0x02#8, 0x50#8, 0x51#8, 0x52#8] := by
  refine ⟨rfl, rfl, rfl, by decide, rfl, by decide⟩

theorem witness_RefusedCommandChangesNothing :
    exec .bcAlign State.reset = .next (State.reset.misuse 0x14) ∧
      (State.reset.misuse 0x14).port.responses = State.reset.port.responses ++ [errorResponse 6 0x14] ∧
      (errorResponse 6 0x14).err = 6 := ⟨rfl, rfl, rfl⟩

theorem witness_OwnedUnitsRefuseCommands :
    (session .decode 0 []).sessionOpen = true ∧ 0x10 ≤ (Instr.bcInit .read .lsbFirst).opcode.toNat ∧
      (Instr.mfToken 0).opcode.toNat < 0x50 := by decide +kernel

theorem witness_ClosedUnitsRefuseCommands :
    State.reset.sessionOpen = false ∧ State.reset.sw.cap = 0 ∧ State.reset.mf.opened = false ∧
      ({ finder 1 [] with mf := { (finder 1 []).mf with last := true } } : State).sessionOpen = false ∧
      (State.reset.table (0#4).toNat).valid = false ∧ (State.reset.table (15#4).toNat).valid = false ∧
      State.reset.bc.opened = false ∧ (channel .write .lsbFirst []).sessionOpen = false ∧
      (channel .write .lsbFirst []).bc.mode = .write := by decide +kernel

theorem witness_ChannelMisuseIsRefused :
    (session .decode 0 []).sessionOpen = true ∧ State.reset.bc.opened = false ∧
      (channel .read .lsbFirst []).bc.mode = .read ∧ (channel .write .lsbFirst []).bc.mode = .write ∧
      32 < (33#6).toNat ∧
      (match after (exec .bcFlush (channel .write .lsbFirst [])) with
        | some t => decide (t.bc.mode = .write) && t.bc.flushed
        | none => false) = true := by decide +kernel

theorem witness_InitCommandsCreateTheirUnits :
    State.reset.sessionOpen = false ∧ 4096 ≤ (4096#17).toNat ∧ (65536#17).toNat ≤ 65536 ∧ (9#4).toNat ≤ 9 := by decide

/-- A writing channel with 7 bits pending. -/
def sevenPending : State :=
  { channel .write .msbFirst [] with bc := { Bc.init .write .msbFirst with acc := 0x55, nbits := 7, total := 7 } }

theorem witness_BcWriteBitsResult :
    sevenPending.ChannelReady .write ∧ sevenPending.bc.flushed = false ∧ (32#6).toNat ≤ 32 ∧ sevenPending.bc.Room 32 ∧
      sevenPending.countersFit = true := by decide

/-- A reading channel with 1 bit pending. -/
def onePending (src : List Byte) : State :=
  { channel .read .lsbFirst src with bc := { Bc.init .read .lsbFirst with acc := 1, nbits := 1, total := 7, nbytes := 1 } }

theorem witness_BcReadAndPeekResult :
    (onePending [1, 2, 3, 4]).ChannelReady .read ∧ (onePending [1, 2, 3, 4]).bc.Room 40 ∧
      (onePending [1, 2, 3, 4]).countersFit = true ∧
      (32#6).toNat ≤ (onePending [1, 2, 3, 4]).bc.nbits + 8 * (onePending [1, 2, 3, 4]).port.src.length ∧
      (0#6).toNat ≤ (onePending []).bc.nbits := by decide

theorem witness_ShortReadConsumesNothing :
    (onePending [1]).ChannelReady .read ∧ (onePending [1]).bc.Room 40 ∧ (onePending [1]).countersFit = true ∧
      (onePending [1]).bc.nbits + 8 * (onePending [1]).port.src.length < (10#6).toNat ∧ (10#6).toNat ≤ 32 := by decide

theorem witness_ZeroCountDoesNothing :
    sevenPending.ChannelReady .write ∧ sevenPending.bc.flushed = false ∧ sevenPending.countersFit = true ∧
      (onePending []).ChannelReady .read ∧ (onePending []).countersFit = true := by decide

theorem witness_BcAlignResult :
    sevenPending.ChannelReady .write ∧ sevenPending.bc.flushed = false ∧ sevenPending.bc.Room 8 ∧
      (onePending []).ChannelReady .read ∧ (onePending []).bc.Room 8 ∧ (onePending []).countersFit = true := by decide

/-- A flushed channel. -/
def flushedChannel : State :=
  { channel .write .lsbFirst [] with bc := { Bc.init .write .lsbFirst with flushed := true, total := 8, nbytes := 1 } }

theorem witness_BcFlushAndCloseResult :
    sevenPending.ChannelReady .write ∧ sevenPending.bc.flushed = false ∧ sevenPending.bc.Room 8 ∧
      flushedChannel.ChannelReady .write ∧ flushedChannel.bc.flushed = true ∧ flushedChannel.bc.Room 8 ∧
      flushedChannel.countersFit = true ∧ (onePending []).ChannelReady .read := by decide

theorem witness_RegroupingLaw :
    (onePending [0x9f, 0x57]).ChannelReady .read ∧ (∀ c ∈ [5#6, 12#6, 0#6], c.toNat ≤ 32) ∧
      ([5#6, 12#6, 0#6].map BitVec.toNat).sum ≤
        (onePending [0x9f, 0x57]).bc.nbits + 8 * (onePending [0x9f, 0x57]).port.src.length ∧
      (onePending [0x9f, 0x57]).bc.Room (([5#6, 12#6, 0#6].map BitVec.toNat).sum + 40) ∧
      (onePending [0x9f, 0x57]).countersFit = true := by decide

theorem witness_SymmetryLaw :
    State.reset.sessionOpen = false ∧ State.reset.countersFit = true ∧
      (∀ f ∈ [(0x1F#32, 5#6), (0xABC#32, 12#6)], f.2.toNat ≤ 32) ∧
      (([(0x1F#32, 5#6), (0xABC#32, 12#6)].map fun f => f.2.toNat).sum < 2 ^ 63) ∧
      sinkAfter [.bcInit .write .msbFirst, .bcWriteBits 0x1F 5, .bcWriteBits 0xABC 12, .bcFlush] State.reset =
        some [0xf9, 0xea, 0x80] ∧
      (given [0xf9, 0xea, 0x80, 0x33]).port.src = [0xf9, 0xea, 0x80] ++ [0x33] ∧
      (given [0xf9, 0xea, 0x80, 0x33]).countersFit = true :=
  ⟨by decide, by decide, by simp, by decide, by decide +kernel, rfl, by decide⟩

theorem witness_MsbFirstReversesBytes :
    (fivePending .lsbFirst).bc.mode = .write ∧ (fivePending .lsbFirst).bc.order = .lsbFirst ∧
      ∃ t, execAll [.bcWriteBits 0xABC 12, .bcAlign, .bcFlush, .bcClose] (fivePending .lsbFirst) = .next t :=
  ⟨rfl, rfl, next_of_isSome (by decide +kernel)⟩

theorem witness_SwPushResult :
    (windowAt 4096).WindowReady ∧ (windowAt 4096).sw.win.wf = true ∧ (windowAt 4096).sw.cursor + 1 < 2 ^ 64 ∧
      (windowAt 4096).countersFit = true ∧ 1 ≤ (windowAt 4096).sw.hist := by decide

theorem witness_SwGetResult :
    window.WindowReady ∧ (2#32).toNat ≤ min window.sw.cursor window.sw.cap ∧
      ¬((3#32).toNat ≤ min window.sw.cursor window.sw.cap) := by decide

theorem witness_SwCopyResult :
    window.WindowReady ∧ 1 ≤ (2#32).toNat ∧ (2#32).toNat ≤ min window.sw.cursor window.sw.cap ∧ window.sw.win.wf = true ∧
      window.sw.cursor + (5000#32).toNat < 2 ^ 64 ∧ window.countersFit = true ∧
      ¬(1 ≤ (0#32).toNat) ∧ ¬((3#32).toNat ≤ min window.sw.cursor window.sw.cap) := by decide

theorem witness_HcStageResult :
    State.reset.sessionOpen = false ∧ (319#9).toNat ≤ 319 ∧ State.reset.hc.stg.wf = true ∧
      319 < (320#9).toNat := by decide

theorem witness_HcBuildLenResult :
    Instr.buildable 2 4 15 = true ∧ (staged [2, 1, 3, 3]).sessionOpen = false ∧
      (∀ l ∈ (staged [2, 1, 3, 3]).stagedArray 4, l ≤ 15) ∧
      kraftSum 15 ((staged [2, 1, 3, 3]).stagedArray 4) = 2 ^ 15 ∧
      kraftSum 15 ((staged [1, 1, 1, 0]).stagedArray 4) ≠ 2 ^ 15 ∧
      (2 < ((staged [1, 3, 1, 0]).stagedArray 4).getD 1 0 ∧
        ∀ j, j < 1 → ((staged [1, 3, 1, 0]).stagedArray 4).getD j 0 ≤ 2) := by decide +kernel

theorem witness_HcBuildFreqResult :
    Instr.buildable 0 4 2 = true ∧ (staged [1, 1, 2, 2]).sessionOpen = false ∧
      (((staged [1, 1, 2, 2]).stagedArray 4).filter fun f => decide (f ≠ 0)).length = 4 ∧
      (((staged [0, 7, 0, 0]).stagedArray 4).filter fun f => decide (f ≠ 0)).length = 1 := by decide +kernel

theorem witness_HcBuildFreqIsOptimal :
    Instr.buildable 0 4 2 = true ∧ (staged [1, 1, 2, 2]).sessionOpen = false ∧
      2 ≤ (((staged [1, 1, 2, 2]).stagedArray 4).filter fun f => decide (f ≠ 0)).length ∧
      (((staged [1, 1, 2, 2]).stagedArray 4).filter fun f => decide (f ≠ 0)).length ≤ 2 ^ 2 ∧
      [2, 2, 2, 2].length = 4 ∧
      (∀ k, k < 4 → ([2, 2, 2, 2].getD k 0 = 0 ↔ ((staged [1, 1, 2, 2]).stagedArray 4).getD k 0 = 0)) ∧
      kraftSum 2 [2, 2, 2, 2] ≤ 2 ^ 2 := by decide +kernel

theorem witness_FixedTablesCodes :
    State.reset.sessionOpen = false ∧ (287#9).toNat < 288 ∧ (31#9).toNat < 32 := by decide

theorem witness_HcEncodeAndDiscardResult :
    (decoding []).sessionOpen = false ∧ ((decoding []).table (0#4).toNat).valid = true ∧
      (3#9).toNat < ((decoding []).table (0#4).toNat).n ∧ (2#4).toNat ≤ 2 := by decide

theorem witness_HcDecodeInvertsEncode :
    (decoding [0xda, 0x01]).ChannelReady .read ∧ (decoding [0xda, 0x01]).bc.Room 40 ∧
      (decoding [0xda, 0x01]).countersFit = true ∧ ((decoding [0xda, 0x01]).table (0#4).toNat).valid = true ∧
      ((decoding [0xda, 0x01]).table (0#4).toNat).Wf ∧ ((decoding [0xda, 0x01]).table (0#4).toNat).Complete ∧
      (1#9).toNat < ((decoding [0xda, 0x01]).table (0#4).toNat).n ∧
      (decoding [0xda, 0x01]).upcoming % 2 ^ 1 = codeField 1 0 :=
  ⟨by decide, by decide, by decide, by decide, by decide, table2133_complete, by decide, by decide⟩

theorem witness_HcDecodeNeverInvalidCode :
    (decoding [0xff]).ChannelReady .read ∧ (decoding [0xff]).bc.Room 40 ∧ (decoding [0xff]).countersFit = true ∧
      ((decoding [0xff]).table (0#4).toNat).valid = true ∧ ((decoding [0xff]).table (0#4).toNat).Wf ∧
      ((decoding [0xff]).table (0#4).toNat).Complete :=
  ⟨by decide, by decide, by decide, by decide, by decide, table2133_complete⟩

theorem witness_LookupStructureAgrees :
    (decoding [0xff]).ChannelReady .read ∧ (decoding [0xff]).bc.Room 40 ∧ (decoding [0xff]).countersFit = true ∧
      ((decoding [0xff]).table (0#4).toNat).valid = true ∧ ((decoding [0xff]).table (0#4).toNat).Wf ∧
      ((decoding [0xff]).table (0#4).toNat).Complete ∧
      ((decoding [0xff]).table (0#4).toNat).maxlen ≤
        (decoding [0xff]).bc.nbits + 8 * (decoding [0xff]).port.src.length :=
  ⟨by decide, by decide, by decide, by decide, by decide, table2133_complete, by decide⟩

theorem witness_MfRunCoversInput :
    (finder 6 [1, 2, 3]).sessionOpen = false ∧ (finder 6 [1, 2, 3]).mf.opened = true ∧
      (finder 6 [1, 2, 3]).mf.last = false ∧ (finder 6 [1, 2, 3]).mf.pos ≤ (finder 6 [1, 2, 3]).mf.input.length ∧
      (finder 6 [1, 2, 3]).countersFit = true ∧
      (finder 6 [1, 2, 3]).mf.input.length + (finder 6 [1, 2, 3]).port.src.length < 2 ^ 63 ∧
      (finder 6 [1, 2, 3]).sw.cursor < 2 ^ 63 ∧
      (finder 6 [1, 2, 3]).mf.tok.length +
        ((finder 6 [1, 2, 3]).mf.input.length + (finder 6 [1, 2, 3]).port.src.length - (finder 6 [1, 2, 3]).mf.pos) <
          2 ^ 32 ∧
      1 ≤ (1#4).toNat ∧ (9#4).toNat ≤ 9 ∧ (given (List.replicate 259 0x61)).sessionOpen = false ∧
      (given (List.replicate 259 0x61)).countersFit = true ∧
      (given (List.replicate 259 0x61)).port.src = List.replicate 259 0x61 := by
  refine ⟨by decide, by decide, by decide, by decide, by decide, by decide, by decide, by decide, by decide, by decide, by decide,
    by decide, rfl⟩

/-- The clause on an input whose end is not marked: 261 bytes ahead give one step, 260 none (R236), and level 0 needs none
ahead. -/
theorem witness_MfRunCoversInput_open :
    (∀ s ∈ [finder 1 (List.replicate 261 0x61), finder 1 (List.replicate 260 0x61), finder 0 [1]],
      s.sessionOpen = false ∧ s.mf.opened = true ∧ s.mf.last = false ∧ s.mf.pos ≤ s.mf.input.length ∧
        s.countersFit = true ∧ s.mf.input.length + s.port.src.length < 2 ^ 63 ∧ s.sw.cursor < 2 ^ 63 ∧
        s.mf.tok.length + (s.mf.input.length + s.port.src.length - s.mf.pos) < 2 ^ 32) ∧
      (finder 1 []).mf.level ≠ 0 ∧ (finder 0 []).mf.level = 0 := by
  refine ⟨?_, by decide, by decide⟩
  simp only [List.mem_cons, List.not_mem_nil, or_false]
  rintro s (rfl | rfl | rfl) <;>
    exact ⟨by decide, by decide, by decide, by decide, by decide, by decide +kernel, by decide, by decide +kernel⟩

/-- R236: a step with exactly 261 bytes ahead is taken, one with 260 is not. -/
theorem test_MF_RUN_lookahead :
    (match exec (.mfRun false) (finder 1 (List.replicate 261 0x61)) with
      | .next t => t.mf.pos
      | _ => 0) = 1 ∧
    (match exec (.mfRun false) (finder 1 (List.replicate 260 0x61)) with
      | .next t => t.mf.pos
      | _ => 1) = 0 := by decide +kernel

theorem witness_MfRunChunksDoNotMatter :
    (finder 6 []).sessionOpen = false ∧ (finder 6 []).mf.opened = true ∧ (finder 6 []).mf.last = false ∧
      (finder 6 []).mf.pos ≤ (finder 6 []).mf.input.length ∧
      ∃ t1 t2 u, exec (.mfRun false) { finder 6 [] with port := { (finder 6 []).port with src := [1, 2] } } = .next t1 ∧
        exec (.mfRun true) { t1 with port := { t1.port with src := [3] } } = .next t2 ∧
        exec (.mfRun true) { finder 6 [] with port := { (finder 6 []).port with src := [1, 2] ++ [3] } } = .next u :=
  ⟨by decide, by decide, by decide, by decide, _, _, _, rfl, rfl, rfl⟩

theorem witness_MfTokenResult :
    let s : State := { finder 1 [] with mf := { (finder 1 []).mf with tok := [0x80120001] } }
    s.sessionOpen = false ∧ s.mf.opened = true ∧ (0#32).toNat < s.mf.tok.length ∧
      tokenInBounds 32768 (.copy 258 32768) = true ∧ tokenInBounds 32768 (.copy 3 1) = true := by decide

theorem witness_BkInitResult : (9#4).toNat ≤ 9 ∧ (.decode : Direction) ≠ .encode := by decide

theorem witness_BkFeedDecodeContract :
    (session .decode 0 [0x4b]).Inv ∧ (session .decode 0 [0x4b]).bk.phase.decoding = true ∧
      (session .decode 0 [0x4b]).countersFit = true ∧
      (session .decode 0 [0x4b]).bc.total + 8 * (session .decode 0 [0x4b]).port.src.length + 64 < 2 ^ 64 ∧
      (session .decode 0 [0x4b]).bk.inTotal + (session .decode 0 [0x4b]).port.src.length < 2 ^ 64 ∧
      (session .decode 0 [0x4b]).bk.outTotal + (0xFFFFFFFF#32).toNat < 2 ^ 64 :=
  ⟨decode_session_invariant, by decide, by decide, by decide, by decide, by decide⟩

theorem witness_BkFeedEncodeContract :
    let s := session .encode 1 [0x61]
    s.Inv ∧ s.bk.phase.encoding = true ∧ s.countersFit = true ∧ s.bc.total < 2 ^ 62 ∧ s.bk.blkStart < 2 ^ 62 ∧
      s.sw.cursor < 2 ^ 62 ∧ s.bk.inTotal < 2 ^ 62 ∧ s.bk.outTotal < 2 ^ 62 ∧ s.outq.length < 2 ^ 62 ∧
      s.mf.input.length < 2 ^ 62 ∧ s.port.src.length < 2 ^ 32 ∧
      s.mf.tok.length + (s.mf.input.length + s.port.src.length - s.mf.pos) < 2 ^ 32 :=
  ⟨encode_session_invariant, by decide, by decide, by decide, by decide, by decide, by decide, by decide, by decide,
    by decide, by decide, by decide⟩

theorem witness_BkCompressCompletes :
    (9#4).toNat ≤ 9 ∧ (given [0x61]).port.src.length < 2 ^ 32 ∧ (given []).port.src.length < 2 ^ 32 := by decide

theorem witness_BkCompressLevelZero : (given [0x61]).port.src.length < 2 ^ 32 := by decide

theorem witness_CostsAreExact :
    (Bc.init .write .lsbFirst).Wf ∧ (Bc.init .write .lsbFirst).mode = .write ∧
      (match dynPlan params [.lit 0x61, .copy 9 1] with
        | .ok _ => true
        | .error _ => false) = true := by decide +kernel

/-- A decode session in a phase of a block of a kind: one byte delivered, zeros at the source, a table in slot 2. -/
def probe (phase : Phase) (kind : BitVec 2) (storedRem idx : Nat) : State :=
  let s := (session .decode 0 [0, 0, 0, 0, 0]).setTable 2 table2133
  { s with
    sw := s.sw.push 0x61
    bk := { s.bk with
      phase := phase, kind := kind, storedRem := storedRem, outTotal := 1, nlit := 257, ndist := 1, ncl := 4, idx := idx
      lenSym := 257, length := 3, dist := 1, copyRem := 3 } }

/-- The phases the clauses of DecoderMicroSteps are about, each with operands. -/
def probes : List State :=
  [probe .header 0 0 0, probe .storedLen 0 0 0, probe .storedCopy 0 0 0, probe .storedCopy 0 2 0, probe .dynHdr 2 0 0,
    probe .dynCl 2 0 0, probe .dynLens 2 0 0, probe .dynLens 2 0 258, probe .symbol 1 0 0, probe .lenExtra 1 0 0,
    probe .distSym 1 0 0, probe .distExtra 1 0 0, probe .copy 1 0 0]

theorem probe_invariant : ∀ s ∈ probes, s.Inv := by
  simp only [probes, List.mem_cons, List.not_mem_nil, or_false]
  rintro s (rfl | rfl | rfl | rfl | rfl | rfl | rfl | rfl | rfl | rfl | rfl | rfl | rfl) <;>
    exact
      { channel := by decide, window := ⟨by decide, by decide, by decide, by decide, by decide⟩, staging := by decide
        heads := by decide, links := by decide, slots := by decide, finder := by decide, decodes := by decide
        encodes := by decide, running := by decide
        decoder := ⟨by decide, by decide, by decide, by decide, by decide, by decide, by decide, by decide, by decide⟩ }

theorem probe_tables : ∀ s ∈ probes, ∀ k, k < 3 → (s.table k).valid = true → (s.table k).Complete := by
  simp only [probes, List.mem_cons, List.not_mem_nil, or_false]
  rintro s (rfl | rfl | rfl | rfl | rfl | rfl | rfl | rfl | rfl | rfl | rfl | rfl | rfl) k hk hv <;>
    match k, hk, hv with
    | 0, _, hv => exact absurd hv (by decide)
    | 1, _, hv => exact absurd hv (by decide)
    | 2, _, _ => exact table2133_complete

theorem witness_DecoderMicroSteps_steps :
    (∀ s ∈ probes, s.Inv ∧ ∀ k, k < 3 → (s.table k).valid = true → (s.table k).Complete) ∧
      (∀ s ∈ probes, 32 ≤ s.bc.nbits + 8 * s.port.src.length) ∧
      1 < 19 ∧ (probe .dynLens 2 0 0).comesNext 2 1 0 ∧ (probe .dynLens 2 0 0).bk.idx < 257 + 1 ∧
      (probe .dynLens 2 0 258).bk.idx = 257 + 1 ∧ (probe .symbol 1 0 0).comesNext 3 256 0 ∧
      (probe .distSym 1 0 0).comesNext 4 0 0 :=
  ⟨fun s h => ⟨probe_invariant s h, probe_tables s h⟩, by decide +kernel, by decide, by decide +kernel, by decide, by decide,
    by decide +kernel, by decide +kernel⟩

theorem witness_DecoderMicroSteps_engine :
    (session .decode 0 [0x4b]).Inv ∧ (session .decode 0 [0x4b]).bk.phase.decoding = true ∧
      (∃ t, exec (.bkFeed false 9) (session .decode 0 [0x4b]) = .next t) ∧ (given [0x03, 0x02]).Inv ∧
      (∃ s1, exec (.bkInit .decode 0) (given [0x03, 0x02]) = .next s1) ∧
      ∃ t, exec .bkDecompress (given [0x03, 0x02]) = .next t ∧ decide (t.err.kind = 3) = true :=
  ⟨decode_session_invariant, by decide, next_of_isSome (by decide +kernel), given_invariant _,
    next_of_isSome (by decide +kernel), next_of_any (p := fun t => decide (t.err.kind = 3)) (by decide +kernel)⟩

theorem witness_HeldStepConsumesNothing :
    microStep params (session .decode 0 []) = some (.hold (session .decode 0 [])) ∧
      microStep params ((session .decode 0 []).markLast true) =
        some (.raise (endOfInput 3) ((session .decode 0 []).markLast true)) := ⟨rfl, rfl⟩

theorem witness_BkDecompressContract : (given [0x4b]).countersFit = true ∧ (given [0x4b]).port.src.length < 2 ^ 48 := by decide

theorem witness_StoredBlocksAreCopied_feed :
    (inStored [0x61, 0x62]).Inv ∧ (inStored [0x61, 0x62]).bk.phase = .storedCopy ∧ (inStored [0x61, 0x62]).bc.nbits = 0 ∧
      (inStored [0x61, 0x62]).countersFit = true ∧ (2#32).toNat ≤ (inStored [0x61, 0x62]).bk.storedRem ∧
      (2#32).toNat ≤ (inStored [0x61, 0x62]).port.src.length ∧
      (inStored [0x61, 0x62]).port.src.length < (inStored [0x61, 0x62]).bk.storedRem ∧
      (inStored [0x61, 0x62]).bk.last = false ∧ (inStored [0x61, 0x62]).port.src.length < (100#32).toNat ∧
      (inStored [0x61, 0x62]).bc.total + 8 * (inStored [0x61, 0x62]).port.src.length + 64 < 2 ^ 64 ∧
      (inStored [0x61, 0x62]).bk.inTotal + (inStored [0x61, 0x62]).port.src.length < 2 ^ 64 ∧
      (inStored [0x61, 0x62]).bk.outTotal + (100#32).toNat < 2 ^ 64 :=
  ⟨stored_session_invariant, by decide, by decide, by decide, by decide, by decide, by decide, by decide, by decide,
    by decide, by decide, by decide⟩

theorem witness_StoredBlocksAreCopied_oneShot :
    (given [0x01, 0x01, 0x00, 0xfe, 0xff, 0x61, 0x99]).countersFit = true ∧
      (given [0x01, 0x01, 0x00, 0xfe, 0xff, 0x61, 0x99]).port.src = storedFile [0x61] ++ [0x99] ∧
      (given [0x01, 0x00, 0x00, 0xff, 0xff]).port.src = storedFile [] ++ [] := by decide

/-- The feeds of R354's first trace. -/
def tracedFeeds : List Feed := [⟨[0x4b], false, 100⟩, ⟨[0x84, 0x03], false, 4⟩, ⟨[0x00], true, 100⟩]

theorem witness_StreamingEqualsOneShot_decode :
    (0#4).toNat ≤ 9 ∧ (given []).Inv ∧ (given []).countersFit = true ∧ endMarkedOnce tracedFeeds = true ∧
      (given [0x4b, 0x84, 0x03, 0x00]).port.src = (given []).port.src ++ fedBytes tracedFeeds ∧
      ∃ t, (match exec (.bkInit .decode 0) (given []) with
        | .next s1 => feedAll tracedFeeds s1
        | stop => stop) = .next t ∧ (!t.sessionOpen && decide (t.port.sink = List.replicate 10 0x61)) = true :=
  ⟨by decide, given_invariant _, by decide, by decide, by decide,
    next_of_any (p := fun t => !t.sessionOpen && decide (t.port.sink = List.replicate 10 0x61)) (by decide +kernel)⟩

/-- The feeds of R354's second trace, with fewer bytes. -/
def encodedFeeds : List Feed := [⟨[0x61], false, 100⟩, ⟨[], true, 2⟩, ⟨[], false, 100⟩]

theorem witness_StreamingEqualsOneShot_encode :
    (1#4).toNat ≤ 9 ∧ (given []).Inv ∧ (given []).countersFit = true ∧ endMarkedOnce encodedFeeds = true ∧
      (given [0x61]).port.src = (given []).port.src ++ fedBytes encodedFeeds ∧
      ∃ t, (match exec (.bkInit .encode 1) (given []) with
        | .next s1 => feedAll encodedFeeds s1
        | stop => stop) = .next t ∧ (!t.sessionOpen && decide (t.port.sink = [0x4b, 0x04, 0x00])) = true :=
  ⟨by decide, given_invariant _, by decide, by decide, by decide,
    next_of_any (p := fun t => !t.sessionOpen && decide (t.port.sink = [0x4b, 0x04, 0x00])) (by decide +kernel)⟩

/-- `window` with bytes at the source. -/
def windowWith (src : List Byte) : State := { window with port := { Port.empty with src := src } }

theorem window_wf : window.sw.Wf :=
  ⟨by decide, by decide, by decide, by decide, fun a ha => by
    have h : a < 2 := ha
    match a, h with
    | 0, _ => decide
    | 1, _ => decide⟩

theorem windowWith_invariant (src : List Byte) : (windowWith src).Inv where
  channel := reset_invariant.channel
  window := window_wf
  staging := reset_invariant.staging
  heads := reset_invariant.heads
  links := reset_invariant.links
  slots := reset_invariant.slots
  finder := fun h => absurd (show false = true from h) (by decide)
  decodes := fun h => absurd (show Phase.idle.decoding = true from h) (by decide)
  encodes := fun h => absurd (show Phase.idle.encoding = true from h) (by decide)
  running := reset_invariant.running
  decoder := ⟨reset_invariant.decoder.dynamic, reset_invariant.decoder.counts, reset_invariant.decoder.clIndex,
    reset_invariant.decoder.lens, reset_invariant.decoder.tables, reset_invariant.decoder.lenSym,
    reset_invariant.decoder.length, reset_invariant.decoder.distSym,
    fun h => absurd (show Phase.idle = Phase.copy from h) (by decide)⟩

theorem witness_StreamingEqualsOneShot_history :
    (given [0x4b, 0x84, 0x03, 0x00]).Inv ∧ (windowWith [0x4b, 0x84, 0x03, 0x00]).Inv ∧
      (given [0x4b, 0x84, 0x03, 0x00]).port.src = (windowWith [0x4b, 0x84, 0x03, 0x00]).port.src ∧
      (∃ t, exec .bkDecompress (given [0x4b, 0x84, 0x03, 0x00]) = .next t) ∧
      (∃ t, exec .bkDecompress (windowWith [0x4b, 0x84, 0x03, 0x00]) = .next t) ∧
      (∃ t, exec (.bkCompress 1) (given [0x61]) = .next t) ∧ ∃ t, exec (.bkCompress 1) (windowWith [0x61]) = .next t :=
  ⟨given_invariant _, windowWith_invariant _, rfl, next_of_isSome (by decide +kernel), next_of_isSome (by decide +kernel),
    next_of_isSome (by decide +kernel), next_of_isSome (by decide +kernel)⟩

theorem witness_DecompressInvertsCompress :
    (∃ t, exec (.bkCompress 1) (given [0x61]) = .next t) ∧
      sinkAfter [.bkCompress 1] (given [0x61]) = some ([] ++ [0x4b, 0x04, 0x00]) ∧
      (given [0x4b, 0x04, 0x00, 0x99]).Inv ∧ (given [0x4b, 0x04, 0x00, 0x99]).countersFit = true ∧
      (given [0x4b, 0x04, 0x00, 0x99]).port.src = [0x4b, 0x04, 0x00] ++ [0x99] :=
  ⟨next_of_isSome (by decide +kernel), by decide +kernel, given_invariant _, by decide, rfl⟩

end Sys2Proof.Tests
end

section

namespace Sys2Proof.Machine

theorem State.misuse_eq_refusedWith (s : State) (op : BitVec 8) :
    s.misuse op = s.refusedWith (BitVec.ofNat 8 (unitOfOp op.toNat)) (op.setWidth 32) := by
  simp [State.misuse, State.raiseDirect, State.recordFault, State.refusedWith, errorResponse, ErrKind.code]

theorem Mem.get_all (free : Nat → Nat → Option Nat) (a : Nat) :
    ({ fill := .all none, cells := [] } : Mem (Option Nat)).get free a = none := rfl

/-- A session owns units 1 to 4: the check each of their commands makes first (R21, R341). -/
theorem exec_owned (i : Instr) (s : State) (h : s.sessionOpen = true) (hlo : 0x10 ≤ i.opcode.toNat)
    (hhi : i.opcode.toNat < 0x50) : exec i s = .next (s.misuse i.opcode) := by
  cases i with
  | regRead _ | coreReset => simp [Instr.opcode] at hlo
  | bkInit _ _ | bkCompress _ | bkDecompress | bkFeed _ _ => simp [Instr.opcode] at hhi
  | bcInit mode order => simp [exec, execBcInit, h, Instr.opcode]
  | bcWriteBits value count => simp [exec, execBcWriteBits, State.bcRefuses, State.bcClosed, h, Instr.opcode]
  | bcReadBits count => simp [exec, execBcReadBits, State.bcRefuses, State.bcClosed, h, Instr.opcode]
  | bcPeekBits count => simp [exec, execBcPeekBits, State.bcRefuses, State.bcClosed, h, Instr.opcode]
  | bcAlign => simp [exec, execBcAlign, State.bcClosed, h, Instr.opcode]
  | bcFlush => simp [exec, execBcFlush, State.bcRefuses, State.bcClosed, h, Instr.opcode]
  | bcClose => simp [exec, execBcClose, State.bcClosed, h, Instr.opcode]
  | swInit capacity => simp [exec, execSwInit, h, Instr.opcode]
  | swPush byte => simp [exec, execSwPush, State.swRefuses, h, Instr.opcode]
  | swGet offset => simp [exec, execSwGet, State.swRefuses, h, Instr.opcode]
  | swCopy distance length => simp [exec, execSwCopy, State.swRefuses, h, Instr.opcode]
  | hcStage index value => simp [exec, execHcStage, h, Instr.opcode]
  | hcBuildFreq slot n limit => simp [exec, execHcBuildFreq, State.buildRefuses, State.hcRefuses, h, Instr.opcode]
  | hcBuildLen slot n limit => simp [exec, execHcBuildLen, State.buildRefuses, State.hcRefuses, h, Instr.opcode]
  | hcEncode slot symbol => simp [exec, execHcEncode, State.hcRefuses, h, Instr.opcode]
  | hcDecode slot => simp [exec, execHcDecode, State.hcRefuses, h, Instr.opcode]
  | hcDiscard slot => simp [exec, execHcDiscard, State.hcRefuses, h, Instr.opcode]
  | mfInit level => simp [exec, execMfInit, h, Instr.opcode]
  | mfRun last => simp [exec, execMfRun, State.mfRefuses, h, Instr.opcode]
  | mfToken index => simp [exec, execMfToken, State.mfRefuses, h, Instr.opcode]

/-- The unit R372 records for an opcode of an existing unit is the opcode's upper nibble. -/
theorem unitOfOp_eq_shift (op : BitVec 8) (h : op.toNat < 0x60) : BitVec.ofNat 8 (unitOfOp op.toNat) = op >>> 4 := by
  have hunit : unitOfOp op.toNat = op.toNat / 16 := if_pos (by omega)
  apply BitVec.eq_of_toNat_eq
  rw [hunit, BitVec.toNat_ofNat, BitVec.toNat_ushiftRight, Nat.shiftRight_eq_div_pow]
  omega

/-- Settles O21. -/
theorem ownedUnitsRefuseCommands : Obligations.OwnedUnitsRefuseCommands := by
  intro i s hopen hlo hhi
  rw [exec_owned i s hopen hlo hhi, State.misuse_eq_refusedWith, unitOfOp_eq_shift _ (by omega)]

/-- Settles O6. -/
theorem stepRunsDecodedCommand : Obligations.StepRunsDecodedCommand := by
  intro s w i rest hscript hdecode
  simp only [step, hscript, hdecode]
  rfl

/-- Settles O8. -/
theorem resetRegisterValues : Obligations.ResetRegisterValues := by
  refine ⟨?_, by decide, rfl, rfl, rfl, rfl⟩
  decide

theorem params_effort (level : BitVec 4) (h : level.toNat ≤ 9) :
    (params.effort level.toNat).maxChain = [0, 4, 8, 16, 16, 32, 128, 256, 1024, 4096].getD level.toNat 0 ∧
      (params.effort level.toNat).lazyThr = [0, 0, 0, 0, 4, 16, 16, 32, 128, 258].getD level.toNat 0 := by
  generalize level.toNat = l at h
  interval_cases l <;> exact ⟨rfl, rfl⟩

/-- Settles O24. -/
theorem initCommandsCreateTheirUnits : Obligations.InitCommandsCreateTheirUnits := by
  intro s hclosed
  refine ⟨fun mode order => ?_, fun capacity hlo hhi => ?_, fun level hlevel => ?_⟩
  · simp only [exec, execBcInit, hclosed]
    rfl
  · simp only [exec, execSwInit, hclosed]
    rw [if_neg (by simp), if_neg (by simp; omega)]
    rfl
  · obtain ⟨hchain, hlazy⟩ := params_effort level hlevel
    refine ⟨{ fill := .all none, cells := [] }, fun h => Mem.get_all _ _, ?_⟩
    simp only [exec, execMfInit, hclosed]
    rw [if_neg (by simp), if_neg (by omega), ← hchain, ← hlazy]
    rfl

end Sys2Proof.Machine
end

section

namespace Sys2Proof.Machine

/-! ### The window -/

/-- Two positions of the window less than a capacity apart are different cells. -/
theorem window_cells_distinct {cursor cap o : Nat} (h0 : 1 ≤ o) (h1 : o ≤ cursor) (h2 : o < cap) :
    (cursor - o) % cap ≠ cursor % cap := by
  intro h
  have hmod := Nat.sub_mod_eq_zero_of_mod_eq h.symm
  rw [Nat.sub_sub_self h1, Nat.mod_eq_of_lt h2] at hmod
  omega

/-- A command that ends inside the counters' ranges answers its state. -/
theorem State.finish_of_fit {s : State} (h : s.countersFit = true) : s.finish = .next s := if_pos h

/-- A command that carries a counter past its range is refused (U9). -/
theorem State.finish_of_overflow {s : State} (h : ¬s.countersFit = true) : s.finish = .refused .counterOverflow :=
  if_neg h

/-- The counter check, counter by counter (R26, R36, U9). -/
theorem State.countersFit_iff (s : State) : s.countersFit = true ↔
    s.bc.total < 2 ^ 64 ∧ s.bc.nbytes < 2 ^ 64 ∧ s.sw.cursor < 2 ^ 64 ∧ s.mf.pos < 2 ^ 64 ∧
      s.mf.input.length < 2 ^ 64 ∧ s.bk.inTotal < 2 ^ 64 ∧ s.bk.outTotal < 2 ^ 64 ∧ s.bk.blkStart < 2 ^ 64 ∧
      s.mf.tok.length < 2 ^ 32 := by
  simp only [State.countersFit, Bool.and_eq_true, decide_eq_true_eq, and_assoc]

/-- Settles O34. -/
theorem swPushResult : Obligations.SwPushResult := by
  intro byte s hready hwf hcursor hfit
  obtain ⟨hclosed, hcap⟩ := hready
  have hrefuses : s.swRefuses = false := by simp [State.swRefuses, hclosed, hcap]
  refine ⟨(s.sw.push byte).win, ?_, Sw.wf_push _ _ hwf, Mem.get_set_same _ _ _ hwf,
    fun a ha => Mem.get_set_other _ _ ha hwf, fun o h1 h2 h3 => ?_⟩
  · simp only [exec, execSwPush, hrefuses]
    rw [if_neg (by simp), State.finish_of_fit]
    · rfl
    · rw [State.countersFit_iff] at hfit ⊢
      obtain ⟨htotal, hnbytes, -, hrest⟩ := hfit
      exact ⟨htotal, hnbytes, hcursor, hrest⟩
  · have hcell := window_cells_distinct h1 (Nat.le_trans h2 (Nat.min_le_left _ _)) h3
    rw [Nat.add_sub_add_right]
    exact Mem.get_set_other _ _ hcell hwf

/-! ### The counters -/

@[simp] theorem Sw.copyLoop_cap (d : Nat) : ∀ (l : Nat) (w : Sw), (Sw.copyLoop d l w).cap = w.cap
  | 0, _ => rfl
  | l + 1, w => Sw.copyLoop_cap d l (w.push (w.back d))

@[simp] theorem Sw.copyLoop_cursor (d : Nat) : ∀ (l : Nat) (w : Sw), (Sw.copyLoop d l w).cursor = w.cursor + l
  | 0, _ => rfl
  | l + 1, w => by
    rw [Sw.copyLoop, Sw.copyLoop_cursor d l]
    simp only [Sw.push]
    omega

/-- A fetch of bits that are pending or at the source does not fall short (R148). -/
theorem Bc.need_suffices {n : Nat} {c : Bc} {src : List Byte} (h : n ≤ c.nbits + 8 * src.length) :
    n ≤ (Bc.need n c src).1.nbits := by
  obtain ⟨k, -, -, hnbits, -, -, -, -, -, -, henough, -⟩ := Bc.need_spec n src c
  omega

@[simp] theorem Bc.need_total (n : Nat) (c : Bc) (src : List Byte) : (Bc.need n c src).1.total = c.total := by
  obtain ⟨k, -, -, -, -, htotal, -⟩ := Bc.need_spec n src c
  exact htotal

end Sys2Proof.Machine
end

section

namespace Sys2Proof.Machine

/-! ### Canonical codes (R208) -/

/-- The code space that the symbols shorter than `l` take, in units of length `l`: the first code of length `l`. -/
def shorterCodes (len : List Nat) (l : Nat) : Nat :=
  (len.map fun x => if x ≠ 0 ∧ x < l then 2 ^ (l - x) else 0).sum

@[simp] theorem shorterCodes_nil (l : Nat) : shorterCodes [] l = 0 := rfl

@[simp] theorem shorterCodes_cons (x : Nat) (len : List Nat) (l : Nat) :
    shorterCodes (x :: len) l = (if x ≠ 0 ∧ x < l then 2 ^ (l - x) else 0) + shorterCodes len l := rfl

theorem shorterCodes_append (xs ys : List Nat) (l : Nat) :
    shorterCodes (xs ++ ys) l = shorterCodes xs l + shorterCodes ys l := by
  simp [shorterCodes]

theorem shorterCodes_zero : ∀ len : List Nat, shorterCodes len 0 = 0
  | [] => rfl
  | x :: len => by simp [shorterCodes_zero len]

/-- The recurrence of R208. -/
theorem shorterCodes_succ (l : Nat) : ∀ len : List Nat,
    shorterCodes len (l + 1) = (shorterCodes len l + if l = 0 then 0 else lenCount len l) * 2
  | [] => by simp [lenCount]
  | x :: len => by
    have ih := shorterCodes_succ l len
    rw [shorterCodes_cons, shorterCodes_cons, ih]
    simp only [lenCount, List.count_cons, beq_iff_eq]
    rcases Nat.lt_trichotomy x l with hx | hx | hx
    · have hpow : 2 ^ (l + 1 - x) = 2 ^ (l - x) * 2 := by rw [← pow_succ]; congr 1; omega
      simp only [show x < l + 1 by omega, hx, and_true, hpow, show x ≠ l by omega, if_false, Nat.add_zero]
      split <;> split <;> omega
    · subst hx
      simp only [Nat.lt_irrefl, and_false, if_false, Nat.lt_succ_self, and_true, Nat.add_sub_cancel_left, if_true]
      by_cases h0 : x = 0
      · simp [h0]
      · simp only [h0, ne_eq, not_false_eq_true, if_true, if_false]; omega
    · simp only [show ¬x < l + 1 by omega, show ¬x < l by omega, and_false, if_false, show x ≠ l by omega,
        Nat.add_zero, Nat.zero_add]

theorem codeStarts_getD (len : List Nat) : ∀ (k l cur i : Nat), cur = shorterCodes len l → i < k →
    (codeStarts len k l cur).getD i 0 = shorterCodes len (l + i)
  | k + 1, l, cur, 0, hcur, _ => hcur
  | k + 1, l, cur, i + 1, hcur, hi => by
    have ih := codeStarts_getD len k (l + 1) ((cur + if l = 0 then 0 else lenCount len l) * 2) i
      (by rw [shorterCodes_succ, hcur]) (by omega)
    rw [show l + (i + 1) = l + 1 + i by omega, ← ih]
    rfl

/-- `first[l]` (R208). -/
theorem firstCodes_getD (len : List Nat) {l : Nat} (hl : l < 16) : (firstCodes len).getD l 0 = shorterCodes len l := by
  have h := codeStarts_getD len 16 0 0 l (shorterCodes_zero len).symm hl
  rwa [Nat.zero_add] at h

theorem codeStarts_length (len : List Nat) : ∀ k l cur : Nat, (codeStarts len k l cur).length = k
  | 0, _, _ => rfl
  | k + 1, _, _ => congrArg (· + 1) (codeStarts_length len k _ _)

/-- A sum over the indices of a list that looks at the entries only. -/
theorem map_range_getD {β : Type} (g : Nat → β) (xs : List Nat) :
    ((List.range xs.length).map fun i => g (xs.getD i 0)) = xs.map g := by
  apply List.ext_getElem
  · simp
  · intro i h1 h2
    simp at h1
    simp [h1]

/-- The code space of the symbols at most as long as `l`: those shorter, and one code for each of length `l`. -/
theorem atMostCodes_eq {l : Nat} (hl : l ≠ 0) : ∀ xs : List Nat,
    (xs.map fun x => if x ≠ 0 ∧ x ≤ l then 2 ^ (l - x) else 0).sum = shorterCodes xs l + xs.count l
  | [] => rfl
  | x :: xs => by
    have ih := atMostCodes_eq hl xs
    simp only [List.map_cons, List.sum_cons, ih, shorterCodes_cons, List.count_cons, beq_iff_eq]
    by_cases hx : x = l
    · subst hx; simp [hl]; omega
    · simp only [hx, if_false, Nat.le_iff_lt_or_eq, or_false]; omega

/-- A sum over the symbols that looks at a symbol's length and at whether it comes before the symbol after `pre`. -/
theorem sum_range_split (F : Nat → Bool → Nat) (pre suf : List Nat) :
    ((List.range (pre ++ suf).length).map fun i => F ((pre ++ suf).getD i 0) (decide (i < pre.length))).sum =
      (pre.map fun x => F x true).sum + (suf.map fun x => F x false).sum := by
  rw [List.length_append, List.range_add, List.map_append, List.sum_append, List.map_map,
    ← map_range_getD (F · true) pre, ← map_range_getD (F · false) suf]
  congr 2
  · refine List.map_congr_left fun i hi => ?_
    have hi := List.mem_range.mp hi
    simp only [List.getD_append _ _ _ _ hi, hi, decide_true]
  · refine List.map_congr_left fun i _ => ?_
    simp only [Function.comp, List.getD_append_right _ _ _ _ (Nat.le_add_right pre.length i), Nat.add_sub_cancel_left,
      show ¬pre.length + i < pre.length by omega, decide_false]

/-- The code of the symbol that follows `pre` (R208, R209). -/
theorem canonicalCode_split (pre suf : List Nat) {l : Nat} (hl : l ≠ 0) :
    canonicalCode (pre ++ l :: suf) pre.length = shorterCodes (pre ++ l :: suf) l + pre.count l := by
  have hget : (pre ++ l :: suf).getD pre.length 0 = l := by simp
  have hsum := sum_range_split (fun x before =>
    if x ≠ 0 ∧ (x < l ∨ (x = l ∧ before = true)) then 2 ^ (l - x) else 0) pre (l :: suf)
  simp only [decide_eq_true_eq, and_true, Bool.false_eq_true, and_false, or_false, ← Nat.le_iff_lt_or_eq,
    atMostCodes_eq hl] at hsum
  simp only [canonicalCode, hget, if_neg hl, hsum, shorterCodes_append]
  exact Nat.add_right_comm ..

theorem canonicalCode_unused (pre suf : List Nat) : canonicalCode (pre ++ 0 :: suf) pre.length = 0 := by
  simp [canonicalCode]

/-- Consecutive codes within a length, from the first codes on, are the canonical ones (R208, R209). -/
theorem assignCodes_split : ∀ (suf pre next : List Nat), (∀ x ∈ suf, x < 16) → next.length = 16 →
    (∀ l, l ≠ 0 → l < 16 → next.getD l 0 = shorterCodes (pre ++ suf) l + pre.count l) →
    assignCodes suf next = (List.range suf.length).map fun i => canonicalCode (pre ++ suf) (pre.length + i)
  | [], _, _, _, _, _ => rfl
  | l :: rest, pre, next, hlt, hlen, hnext => by
    have happ : pre ++ l :: rest = (pre ++ [l]) ++ rest := by simp
    have htail : ∀ next' : List Nat, next'.length = 16 →
        (∀ l', l' ≠ 0 → l' < 16 → next'.getD l' 0 = shorterCodes (pre ++ l :: rest) l' + (pre ++ [l]).count l') →
        assignCodes rest next' =
          (List.range rest.length).map fun i => canonicalCode (pre ++ l :: rest) (pre.length + (i + 1)) := by
      intro next' hlen' hnext'
      rw [happ] at hnext' ⊢
      rw [assignCodes_split rest (pre ++ [l]) next' (fun x hx => hlt x (List.mem_cons_of_mem _ hx)) hlen' hnext']
      simp only [List.length_append, List.length_singleton, Nat.add_assoc, Nat.add_comm 1]
    simp only [assignCodes, List.length_cons, List.range_succ_eq_map, List.map_cons, List.map_map, Nat.add_zero]
    by_cases hl : l = 0
    · subst hl
      rw [if_pos rfl, canonicalCode_unused, htail next hlen fun l' h0 h16 => by
        rw [hnext l' h0 h16, List.count_append, List.count_singleton]; simp [h0.symm]]
      rfl
    · have hl16 := hlt l (List.mem_cons_self ..)
      rw [if_neg hl, canonicalCode_split _ _ hl, hnext l hl hl16,
        htail _ (by rw [List.length_set, hlen]) fun l' h0 h16 => ?_]
      · rfl
      · have hset : (next.set l (shorterCodes (pre ++ l :: rest) l + List.count l pre + 1)).getD l' 0 =
            if l = l' then shorterCodes (pre ++ l :: rest) l + List.count l pre + 1 else next.getD l' 0 := by
          rw [List.getD_eq_getElem _ _ (by rw [List.length_set]; omega), List.getElem_set,
            List.getD_eq_getElem _ _ (by omega)]
        rw [hset, List.count_append, List.count_singleton]
        by_cases hll : l = l'
        · subst hll; simp [Nat.add_assoc]
        · rw [if_neg hll, hnext l' h0 h16]; simp [hll]

/-- The codes a construction assigns are the canonical codes of the lengths (R208, R209). -/
theorem assignCodes_eq_canonical (len : List Nat) (h : ∀ l ∈ len, l ≤ 15) :
    assignCodes len (firstCodes len) = (List.range len.length).map (canonicalCode len) := by
  have hsplit := assignCodes_split len [] (firstCodes len) (fun x hx => Nat.lt_succ_of_le (h x hx))
    (codeStarts_length len 16 0 0) fun l _ hl => by rw [firstCodes_getD len hl]; rfl
  simpa using hsplit

/-! ### The Kraft sum (R193) -/


@[simp] theorem kraftSum_cons (limit l : Nat) (len : List Nat) :
    kraftSum limit (l :: len) = (if l = 0 then 0 else 2 ^ (limit - l)) + kraftSum limit len := rfl

/-- A used symbol takes at most half of the code space. -/
theorem kraftSum_le (limit : Nat) : ∀ len : List Nat,
    kraftSum limit len ≤ (len.filter fun l => decide (l ≠ 0)).length * 2 ^ (limit - 1)
  | [] => Nat.zero_le _
  | l :: len => by
    have ih := kraftSum_le limit len
    by_cases hl : l = 0
    · simpa [hl] using ih
    · have hpow : 2 ^ (limit - l) ≤ 2 ^ (limit - 1) := Nat.pow_le_pow_right (by omega) (by omega)
      rw [kraftSum_cons, if_neg hl, List.filter_cons_of_pos (by simpa using hl), List.length_cons, Nat.succ_mul]
      omega

/-- Under the Kraft equality at least two symbols are used. -/
theorem two_le_used_of_kraft {limit : Nat} {len : List Nat} (h1 : 1 ≤ limit) (hk : kraftSum limit len = 2 ^ limit) :
    2 ≤ (len.filter fun l => decide (l ≠ 0)).length := by
  have hle := kraftSum_le limit len
  have hpow : 2 ^ limit = 2 * 2 ^ (limit - 1) := by rw [← pow_succ']; congr 1; omega
  rw [hk, hpow] at hle
  exact Nat.le_of_mul_le_mul_right hle (by positivity)

theorem maxLen_le_iff (len : List Nat) (b : Nat) : maxLen len ≤ b ↔ ∀ l ∈ len, l ≤ b := by
  have hfold : ∀ (xs : List Nat) (a : Nat), xs.foldl max a ≤ b ↔ a ≤ b ∧ ∀ l ∈ xs, l ≤ b := by
    intro xs
    induction xs with
    | nil => simp
    | cons x xs ih => intro a; simp [ih, and_assoc]
  simpa [maxLen] using hfold len 0

end Sys2Proof.Machine
end

section

namespace Sys2Proof.Machine

/-! ### Lengths spread over the symbols -/

theorem lookup_of_mem : ∀ {pairs : List (Nat × Nat)} {p : Nat × Nat}, (pairs.map Prod.fst).Nodup → p ∈ pairs →
    pairs.lookup p.1 = some p.2
  | q :: pairs, p, hnodup, hmem => by
    simp only [List.map_cons, List.nodup_cons] at hnodup
    rw [List.lookup_cons]
    rcases List.mem_cons.mp hmem with rfl | hmem
    · simp
    · have hne : (p.1 == q.1) = false := by
        rw [beq_eq_false_iff_ne]
        rintro heq
        exact hnodup.1 (heq ▸ List.mem_map_of_mem hmem)
      rw [hne]
      exact lookup_of_mem hnodup.2 hmem

theorem lookup_of_notMem {pairs : List (Nat × Nat)} {s : Nat} (h : s ∉ pairs.map Prod.fst) : pairs.lookup s = none := by
  rw [List.lookup_eq_none_iff]
  intro p hp
  rw [bne_iff_ne]
  rintro rfl
  exact h (List.mem_map_of_mem hp)

theorem spreadLens_length (n : Nat) (pairs : List (Nat × Nat)) : (spreadLens n pairs).length = n := by
  simp [spreadLens]

theorem mem_spreadLens {n : Nat} {pairs : List (Nat × Nat)} {p : Nat × Nat} (hnodup : (pairs.map Prod.fst).Nodup)
    (hmem : p ∈ pairs) (hlt : p.1 < n) : p.2 ∈ spreadLens n pairs :=
  List.mem_map.mpr ⟨p.1, List.mem_range.mpr hlt, by rw [lookup_of_mem hnodup hmem]; rfl⟩

/-- The share of the code space of the symbols whose lengths are listed (R193). -/
theorem kraftSum_spreadLens (limit n : Nat) : ∀ pairs : List (Nat × Nat), (pairs.map Prod.fst).Nodup →
    (∀ p ∈ pairs, p.1 < n ∧ p.2 ≠ 0) →
    kraftSum limit (spreadLens n pairs) = (pairs.map fun p => 2 ^ (limit - p.2)).sum
  | [], _, _ => by simp [spreadLens, kraftSum]
  | p :: pairs, hnodup, hpairs => by
    simp only [List.map_cons, List.nodup_cons] at hnodup
    obtain ⟨hlt, hpos⟩ := hpairs p (List.mem_cons_self ..)
    have ih := kraftSum_spreadLens limit n pairs hnodup.2 fun q hq => hpairs q (List.mem_cons_of_mem _ hq)
    have hentry : ∀ s : Nat,
        (if (((p :: pairs).lookup s).getD 0) = 0 then 0 else 2 ^ (limit - ((p :: pairs).lookup s).getD 0)) =
          (if s = p.1 then 2 ^ (limit - p.2) else 0) +
            (if ((pairs.lookup s).getD 0) = 0 then 0 else 2 ^ (limit - (pairs.lookup s).getD 0)) := by
      intro s
      rw [List.lookup_cons]
      by_cases hs : s = p.1
      · subst hs
        simp [lookup_of_notMem hnodup.1, hpos]
      · rw [show (s == p.1) = false from beq_eq_false_iff_ne.mpr hs, if_neg hs, Nat.zero_add]
    rw [List.map_cons, List.sum_cons, ← ih]
    simp only [kraftSum, spreadLens, List.map_map, Function.comp_def, hentry, List.sum_map_add]
    congr 1
    calc ((List.range n).map fun s => if s = p.1 then 2 ^ (limit - p.2) else 0).sum
        = ∑ s ∈ Finset.range n, if s = p.1 then 2 ^ (limit - p.2) else 0 := rfl
      _ = 2 ^ (limit - p.2) := by rw [Finset.sum_ite_eq', if_pos (Finset.mem_range.mpr hlt)]

/-! ### The greedy tree (R197) -/

/-- The symbols at the leaves of a tree, from left to right. -/
def HTree.symbols : HTree → List Nat
  | .leaf s => [s]
  | .node l r => l.symbols ++ r.symbols

theorem HTree.depths_symbols : ∀ (t : HTree) (d : Nat), (t.depths d).map Prod.fst = t.symbols
  | .leaf _, _ => rfl
  | .node l r, d => by
    rw [HTree.depths, List.map_append, l.depths_symbols, r.depths_symbols]
    rfl

/-- No leaf is above the root. -/
theorem HTree.le_of_mem_depths : ∀ (t : HTree) (d : Nat), ∀ p ∈ t.depths d, d ≤ p.2
  | .leaf _, _, p, hp => by simp only [HTree.depths, List.mem_singleton] at hp; rw [hp]
  | .node l r, d, p, hp => by
    rcases List.mem_append.mp hp with hp | hp
    · exact Nat.le_of_succ_le (l.le_of_mem_depths _ p hp)
    · exact Nat.le_of_succ_le (r.le_of_mem_depths _ p hp)

theorem HTree.exists_mem_depths : ∀ (t : HTree) (d : Nat), ∃ p, p ∈ t.depths d
  | .leaf s, d => ⟨(s, d), List.mem_singleton.mpr rfl⟩
  | .node l _, d => let ⟨p, hp⟩ := l.exists_mem_depths (d + 1); ⟨p, List.mem_append_left _ hp⟩

/-- The leaves of a tree share the code space of its root exactly (R193). -/
theorem HTree.kraft_depths (limit : Nat) : ∀ (t : HTree) (d : Nat), (∀ p ∈ t.depths d, p.2 ≤ limit) →
    ((t.depths d).map fun p => 2 ^ (limit - p.2)).sum = 2 ^ (limit - d)
  | .leaf _, _, _ => by simp [HTree.depths]
  | .node l r, d, h => by
    obtain ⟨p, hp⟩ := l.exists_mem_depths (d + 1)
    have hdeep := l.le_of_mem_depths _ p hp
    have hlimit := h p (List.mem_append_left _ hp)
    rw [HTree.depths, List.map_append, List.sum_append,
      l.kraft_depths limit _ fun q hq => h q (List.mem_append_left _ hq),
      r.kraft_depths limit _ fun q hq => h q (List.mem_append_right _ hq), ← two_mul, ← pow_succ']
    congr 1
    omega

/-! ### The pool (R197) -/

theorem insertNode_perm (x : HNode) : ∀ pool : List HNode, (insertNode x pool).Perm (x :: pool)
  | [] => .refl _
  | y :: rest => by
    rw [insertNode]
    split
    · exact .refl _
    · exact ((insertNode_perm x rest).cons y).trans (.swap x y rest)

/-- The node of a used symbol (R197). -/
def leafNode (sf : Nat × Nat) : HNode := { w := sf.2, id := sf.1, tree := .leaf sf.1 }

theorem foldl_insertNode_perm : ∀ (l : List (Nat × Nat)) (pool : List HNode),
    (l.foldl (fun pool sf => insertNode (leafNode sf) pool) pool).Perm (l.map leafNode ++ pool)
  | [], _ => .refl _
  | sf :: l, pool =>
    ((foldl_insertNode_perm l _).trans ((insertNode_perm (leafNode sf) pool).append_left _)).trans List.perm_middle

theorem leaves_perm (freq : List Nat) : (leaves freq).Perm ((used freq).map leafNode) := by
  have h := foldl_insertNode_perm (used freq) []
  rwa [List.append_nil] at h

/-- The symbols below the nodes of a pool. -/
def poolSymbols (pool : List HNode) : List Nat := pool.flatMap fun x => x.tree.symbols

/-- The merges end with one tree that holds every symbol of the pool (R197). -/
theorem mergePool_spec (P : Config.Params) (n : Nat) : ∀ (fuel k : Nat) (pool : List HNode), pool ≠ [] →
    pool.length ≤ fuel + 1 →
    ∃ root, mergePool P n fuel k pool = [root] ∧ root.tree.symbols.Perm (poolSymbols pool)
  | fuel, _, [x], _, _ => ⟨x, by cases fuel <;> rfl, by simp [poolSymbols]⟩
  | fuel + 1, k, x :: y :: rest, _, hlen => by
    have hperm := insertNode_perm { w := x.w + y.w, id := P.mergedId n k, tree := .node x.tree y.tree } rest
    obtain ⟨root, hroot, hsymbols⟩ := mergePool_spec P n fuel (k + 1) _
      (List.ne_nil_of_length_pos (by rw [hperm.length_eq]; exact Nat.succ_pos _))
      (by rw [hperm.length_eq]; simpa using hlen)
    refine ⟨root, hroot, hsymbols.trans ?_⟩
    simpa [poolSymbols, HTree.symbols] using hperm.flatMap_right fun x => x.tree.symbols

/-! ### The used symbols (R193) -/

theorem usedFrom_spec : ∀ (s : Nat) (freq : List Nat),
    ((usedFrom s freq).map Prod.fst).Pairwise (· < ·) ∧
      ∀ p ∈ usedFrom s freq, s ≤ p.1 ∧ p.1 < s + freq.length
  | _, [] => by simp [usedFrom]
  | s, f :: rest => by
    obtain ⟨hrising, hrange⟩ := usedFrom_spec (s + 1) rest
    have hrange' : ∀ p ∈ usedFrom (s + 1) rest, s ≤ p.1 ∧ p.1 < s + (f :: rest).length := fun p hp => by
      have := hrange p hp; simp only [List.length_cons]; omega
    rw [usedFrom]
    split
    · exact ⟨hrising, hrange'⟩
    · simp only [List.map_cons, List.pairwise_cons, List.forall_mem_map, List.mem_cons, forall_eq_or_imp]
      exact ⟨⟨fun p hp => (hrange p hp).1, hrising⟩, by simp, hrange'⟩

theorem used_nodup (freq : List Nat) : ((used freq).map Prod.fst).Nodup :=
  (usedFrom_spec 0 freq).1.imp Nat.ne_of_lt

theorem used_lt {freq : List Nat} {p : Nat × Nat} (hp : p ∈ used freq) : p.1 < freq.length := by
  have := ((usedFrom_spec 0 freq).2 p hp).2; omega

theorem used_length_le (freq : List Nat) : (used freq).length ≤ freq.length := by
  have hsub : (used freq).map Prod.fst ⊆ List.range freq.length := fun s hs => by
    obtain ⟨p, hp, rfl⟩ := List.mem_map.mp hs
    exact List.mem_range.mpr (used_lt hp)
  simpa using ((used_nodup freq).subperm hsub).length_le

theorem poolSymbols_leaves (freq : List Nat) : (poolSymbols (leaves freq)).Perm ((used freq).map Prod.fst) := by
  have h := (leaves_perm freq).flatMap_right fun x => x.tree.symbols
  rwa [List.flatMap_map, show (fun sf => (leafNode sf).tree.symbols) = fun sf => [sf.1] from rfl,
    ← List.map_eq_flatMap] at h

/-- What `huffman_lengths` is for at least two used symbols: the depths of a tree with a leaf for each (R197). -/
theorem huffmanLengths_spec (P : Config.Params) {freq : List Nat} (h : 2 ≤ (used freq).length) :
    ∃ l r : HTree, huffmanLengths P freq = spreadLens freq.length ((HTree.node l r).depths 0) ∧
      (HTree.node l r).symbols.Perm ((used freq).map Prod.fst) := by
  have hlen : (leaves freq).length = (used freq).length := by rw [(leaves_perm freq).length_eq, List.length_map]
  obtain ⟨root, hroot, hsymbols⟩ := mergePool_spec P freq.length freq.length 0 (leaves freq)
    (List.ne_nil_of_length_pos (by omega)) (by have := used_length_le freq; omega)
  have hperm := hsymbols.trans (poolSymbols_leaves freq)
  have hlengths : huffmanLengths P freq = spreadLens freq.length (root.tree.depths 0) := by rw [huffmanLengths, hroot]
  cases hnode : root.tree with
  | leaf s =>
    have := hperm.length_eq
    simp only [hnode, HTree.symbols, List.length_singleton, List.length_map] at this
    omega
  | node l r => rw [hnode] at hperm hlengths; exact ⟨l, r, hlengths, hperm⟩

/-- The lengths of the greedy tree fill the code space exactly (R193, R197). -/
theorem huffmanLengths_kraft (P : Config.Params) {freq : List Nat} {limit : Nat} (h : 2 ≤ (used freq).length)
    (hmax : maxLen (huffmanLengths P freq) ≤ limit) : kraftSum limit (huffmanLengths P freq) = 2 ^ limit := by
  obtain ⟨l, r, hlengths, hperm⟩ := huffmanLengths_spec P h
  rw [hlengths] at hmax ⊢
  have hkeys : (((HTree.node l r).depths 0).map Prod.fst).Perm ((used freq).map Prod.fst) := by
    rwa [HTree.depths_symbols]
  have hnodup := hkeys.nodup_iff.mpr (used_nodup freq)
  have hlt : ∀ p ∈ (HTree.node l r).depths 0, p.1 < freq.length := fun p hp => by
    obtain ⟨q, hq, heq⟩ := List.mem_map.mp (hkeys.mem_iff.mp (List.mem_map_of_mem hp))
    exact heq ▸ used_lt hq
  have hpos : ∀ p ∈ (HTree.node l r).depths 0, p.2 ≠ 0 := fun p hp => by
    have : 0 + 1 ≤ p.2 := by
      rcases List.mem_append.mp hp with hp | hp
      · exact l.le_of_mem_depths _ p hp
      · exact r.le_of_mem_depths _ p hp
    omega
  rw [kraftSum_spreadLens limit _ _ hnodup fun p hp => ⟨hlt p hp, hpos p hp⟩]
  exact HTree.kraft_depths limit _ 0 fun p hp =>
    (maxLen_le_iff _ _).mp hmax _ (mem_spreadLens hnodup hp (hlt p hp))

/-! ### Construction from lengths (R206) -/

theorem buildLen_table {limit : Nat} {len : List Nat} {t : Table} (h : buildLen limit len = .table t) :
    t = Table.ofLens limit len ∧ (∀ l ∈ len, l ≤ limit) ∧ kraftSum limit len = 2 ^ limit := by
  unfold buildLen at h
  split at h
  · cases h
  · rename_i hnone
    split at h
    · rename_i hkraft
      cases h
      refine ⟨rfl, fun l hl => ?_, hkraft⟩
      have := List.findIdx?_eq_none_iff.mp hnone l hl
      simpa using this
    · cases h

end Sys2Proof.Machine
end

section

namespace Sys2Proof.Machine

/-! ### Package-merge (R200)

The lengths are the numbers of times the symbols occur in the entries taken from the last list. An item precedes every
package that holds its symbol, so a symbol taken at a level is taken at every later level too: the entries taken share
out the code space exactly. -/

/-- The order of a list of R200: by weight, items before the packages of the same weight. -/
def Pack.Before (x y : Pack) : Prop := x.w ≤ y.w ∧ (x.package = true → y.package = false → x.w < y.w)

/-- The symbols in the entries of a list, one by one. -/
def packSymbols (l : List Pack) : List Nat := l.flatMap Pack.contents

/-- Where an entry is put in a list, weights have not passed it. -/
theorem Pack.before_of_le {x y : Pack} (h : x.le y = true) (hx : x.package = true) : x.Before y := by
  simp only [Pack.le, hx, Bool.or_eq_true, Bool.and_eq_true, decide_eq_true_eq, beq_iff_eq, Bool.not_true,
    Bool.false_and, Bool.false_eq_true, false_or] at h
  refine ⟨by omega, fun _ hy => ?_⟩
  rcases h with h | ⟨-, h, -⟩
  · exact h
  · rw [hy] at h; cases h

/-- What an entry is not put before has at most its weight. -/
theorem Pack.w_le_of_not_le {x y : Pack} (h : ¬x.le y = true) : y.w ≤ x.w := by
  by_contra hlt
  exact h (by simp only [Pack.le, Bool.or_eq_true, decide_eq_true_eq]; exact .inl (by omega))

theorem insertPack_perm (x : Pack) : ∀ l : List Pack, (insertPack x l).Perm (x :: l)
  | [] => .refl _
  | y :: rest => by
    rw [insertPack]
    split
    · exact .refl _
    · exact ((insertPack_perm x rest).cons y).trans (.swap x y rest)

theorem insertPack_before {x : Pack} (hx : x.package = true) : ∀ {l : List Pack}, l.Pairwise Pack.Before →
    (insertPack x l).Pairwise Pack.Before
  | [], _ => List.pairwise_singleton ..
  | y :: rest, h => by
    obtain ⟨hy, hrest⟩ := List.pairwise_cons.mp h
    rw [insertPack]
    split
    · rename_i hle
      have hxy := Pack.before_of_le hle hx
      refine List.pairwise_cons.mpr ⟨fun z hz => ?_, h⟩
      rcases List.mem_cons.mp hz with rfl | hz
      · exact hxy
      · obtain ⟨hyz, hyz'⟩ := hy z hz
        refine ⟨Nat.le_trans hxy.1 hyz, fun _ hz' => ?_⟩
        cases hyp : y.package with
        | true => exact Nat.lt_of_le_of_lt hxy.1 (hyz' hyp hz')
        | false => exact Nat.lt_of_lt_of_le (hxy.2 hx hyp) hyz
    · rename_i hle
      refine List.pairwise_cons.mpr ⟨fun z hz => ?_, insertPack_before hx hrest⟩
      rcases List.mem_cons.mp ((insertPack_perm x rest).mem_iff.mp hz) with rfl | hz
      · exact ⟨Pack.w_le_of_not_le hle, fun _ hz' => by rw [hx] at hz'; cases hz'⟩
      · exact hy z hz

/-- A package goes in front of the packages it is not heavier than. -/
theorem insertPack_packages {x : Pack} (hx : x.package = true) : ∀ {l : List Pack},
    (∀ y ∈ l, y.package = true → x.le y = true) → (insertPack x l).filter Pack.package = x :: l.filter Pack.package
  | [], _ => by simp [insertPack, hx]
  | y :: rest, h => by
    rw [insertPack]
    split
    · rw [List.filter_cons_of_pos hx]
    · rename_i hle
      have hy : ¬y.package = true := fun hy => hle (h y (List.mem_cons_self ..) hy)
      rw [List.filter_cons_of_neg hy, List.filter_cons_of_neg hy]
      exact insertPack_packages hx fun z hz => h z (List.mem_cons_of_mem _ hz)

theorem insertPack_items {x : Pack} (hx : x.package = true) : ∀ l : List Pack,
    (insertPack x l).filter (fun e => !e.package) = l.filter fun e => !e.package
  | [] => by simp [insertPack, hx]
  | y :: rest => by
    rw [insertPack]
    split
    · rw [List.filter_cons_of_neg (by simp [hx])]
    · rw [List.filter_cons, List.filter_cons, insertPack_items hx rest]

/-- What merging packages into items gives: the same entries, in order, each kind in its own order. -/
theorem mergePacks_spec {items : List Pack} (hitems : items.Pairwise Pack.Before)
    (hkind : ∀ x ∈ items, x.package = false) : ∀ {pkgs : List Pack}, (∀ x ∈ pkgs, x.package = true) → pkgs.Pairwise (fun x y => x.le y = true) →
      (mergePacks pkgs items).Perm (pkgs ++ items) ∧ (mergePacks pkgs items).Pairwise Pack.Before ∧
        (mergePacks pkgs items).filter Pack.package = pkgs ∧
        (mergePacks pkgs items).filter (fun e => !e.package) = items
  | [], _, _ => by
    refine ⟨.refl _, hitems, ?_, ?_⟩
    · exact List.filter_eq_nil_iff.mpr fun x hx => by rw [hkind x hx]; simp
    · exact List.filter_eq_self.mpr fun x hx => by rw [hkind x hx]; rfl
  | x :: pkgs, hpkgs, hsorted => by
    have hx := hpkgs x (List.mem_cons_self ..)
    obtain ⟨hfirst, hrest⟩ := List.pairwise_cons.mp hsorted
    obtain ⟨hperm, hbefore, hpackages, hitems'⟩ :=
      mergePacks_spec hitems hkind (fun y hy => hpkgs y (List.mem_cons_of_mem _ hy)) hrest
    refine ⟨(insertPack_perm x _).trans (hperm.cons x), insertPack_before hx hbefore, ?_,
      (insertPack_items hx _).trans hitems'⟩
    refine (insertPack_packages hx fun y hy hyp => ?_).trans (congrArg (x :: ·) hpackages)
    rcases List.mem_append.mp (hperm.mem_iff.mp hy) with hy | hy
    · exact hfirst y hy
    · rw [hkind y hy] at hyp; cases hyp

/-! #### Packages -/

theorem packagesFrom_spec : ∀ (i : Nat) (l : List Pack), l.Pairwise (fun x y => x.w ≤ y.w) →
    (packagesFrom i l).Pairwise (fun x y => x.le y = true) ∧ 2 * (packagesFrom i l).length ≤ l.length ∧
      ∀ q ∈ packagesFrom i l, q.package = true ∧ i ≤ q.ord ∧
        ∃ x ∈ l, ∃ y ∈ l, q.w = x.w + y.w ∧ q.contents = x.contents ++ y.contents
  | _, [], _ => by simp [packagesFrom]
  | _, [_], _ => by simp [packagesFrom]
  | i, x :: y :: rest, h => by
    simp only [List.pairwise_cons, List.mem_cons, forall_eq_or_imp] at h
    obtain ⟨⟨-, hx⟩, hy, hrest⟩ := h
    obtain ⟨hsorted, hlen, hmem⟩ := packagesFrom_spec (i + 1) rest hrest
    refine ⟨List.pairwise_cons.mpr ⟨fun q hq => ?_, hsorted⟩, by simp only [packagesFrom, List.length_cons]; omega,
      fun q hq => ?_⟩
    · obtain ⟨hq, hord, a, ha, b, hb, hw, -⟩ := hmem q hq
      have hax := hx a ha
      have hby := hy b hb
      simp only [Pack.le, hq, hw, Bool.or_eq_true, Bool.and_eq_true, decide_eq_true_eq, beq_iff_eq, Bool.not_true,
        Bool.false_and, Bool.false_eq_true, false_or, true_and]
      omega
    · rcases List.mem_cons.mp hq with rfl | hq
      · exact ⟨rfl, Nat.le_refl _, x, by simp, y, by simp, rfl, rfl⟩
      · obtain ⟨hq, hord, a, ha, b, hb, hw, hc⟩ := hmem q hq
        exact ⟨hq, by omega, a, by simp [ha], b, by simp [hb], hw, hc⟩

/-- The first packages hold the symbols of twice as many entries (R200). -/
theorem packSymbols_take_packages : ∀ (p i : Nat) (l : List Pack), p ≤ (packagesFrom i l).length →
    packSymbols ((packagesFrom i l).take p) = packSymbols (l.take (2 * p))
  | 0, _, _, _ => by simp
  | p + 1, i, x :: y :: rest, h => by
    have ih := packSymbols_take_packages p (i + 1) rest (by simpa [packagesFrom] using h)
    rw [show 2 * (p + 1) = 2 * p + 1 + 1 by omega]
    simp only [packagesFrom, List.take_succ_cons, packSymbols, List.flatMap_cons, List.append_assoc] at ih ⊢
    rw [ih]

/-! #### One level -/

/-- What holds of the list of every level (R200), `depth` levels in: symbols are no heavier than the entries that hold
them, none occurs more often than there are levels, and the first `n` entries hold `n / 2` of the code space: a symbol
that occurs `c` times takes `1 - 2^(-c)`. -/
structure PackRow (items : List Pack) (depth : Nat) (list : List Pack) : Prop where
  sorted : list.Pairwise fun x y => x.w ≤ y.w
  heavy  : ∀ e ∈ list, ∀ s ∈ e.contents, ∃ x ∈ items, x.contents = [s] ∧ x.w ≤ e.w
  bound  : ∀ s, (packSymbols list).count s ≤ depth
  share  : ∀ n, n ≤ list.length →
    ((packSymbols items).map fun s => 1 - (1 / 2 : ℚ) ^ (packSymbols (list.take n)).count s).sum = n / 2

/-- What the items of R200 are: one for each used symbol, by weight. -/
structure ItemRow (items : List Pack) : Prop where
  before : items.Pairwise Pack.Before
  kind   : ∀ x ∈ items, x.package = false
  single : items.map Pack.contents = (packSymbols items).map fun s => [s]
  nodup  : (packSymbols items).Nodup

theorem ItemRow.packSymbols_take {items : List Pack} (h : ItemRow items) (m : Nat) :
    packSymbols (items.take m) = (packSymbols items).take m := by
  rw [packSymbols, List.flatMap_def, List.map_take, h.single, ← List.map_take, ← List.flatMap_def,
    List.flatMap_singleton']

theorem ItemRow.length_symbols {items : List Pack} (h : ItemRow items) : (packSymbols items).length = items.length := by
  have := congrArg List.length h.single
  simpa using this.symm

/-- The number of occurrences of the first symbols, summed up. -/
theorem sum_count_take {ids : List Nat} (h : ids.Nodup) {m : Nat} (hm : m ≤ ids.length) :
    (ids.map fun s => ((ids.take m).count s : ℚ)).sum = m := by
  have hnodup := h
  rw [← List.take_append_drop m ids, List.nodup_append'] at hnodup
  obtain ⟨htake, -, hdisj⟩ := hnodup
  have hin : (ids.take m).map (fun s => ((ids.take m).count s : ℚ)) = (ids.take m).map fun _ => 1 :=
    List.map_congr_left fun s hs => by rw [htake.count, if_pos hs]; rfl
  have hout : (ids.drop m).map (fun s => ((ids.take m).count s : ℚ)) = (ids.drop m).map fun _ => 0 :=
    List.map_congr_left fun s hs => by rw [htake.count, if_neg fun h => hdisj h hs]; rfl
  have hmap : ids.map (fun s => ((ids.take m).count s : ℚ)) =
      (ids.take m).map (fun s => ((ids.take m).count s : ℚ)) ++ (ids.drop m).map fun s => ((ids.take m).count s : ℚ) := by
    rw [← List.map_append, List.take_append_drop]
  rw [hmap, hin, hout]
  simp [hm]

theorem PackRow.first {items : List Pack} (h : ItemRow items) : PackRow items 1 items where
  sorted := h.before.imp And.left
  heavy := fun e he s hs => by
    have hmem := List.mem_map_of_mem (f := Pack.contents) he
    rw [h.single] at hmem
    obtain ⟨s', -, hs'⟩ := List.mem_map.mp hmem
    rw [← hs', List.mem_singleton] at hs
    exact ⟨e, he, by rw [← hs', hs], Nat.le_refl _⟩
  bound := fun s => List.nodup_iff_count_le_one.mp h.nodup s
  share := fun n hn => by
    have hentry : ∀ s, (1 : ℚ) - (1 / 2) ^ ((packSymbols items).take n).count s =
        1 / 2 * ((packSymbols items).take n).count s := fun s => by
      rw [(h.nodup.sublist (List.take_sublist ..)).count]
      split <;> norm_num
    simp only [h.packSymbols_take, hentry]
    rw [List.sum_map_mul_left, sum_count_take h.nodup (by rwa [h.length_symbols])]
    ring

/-- The entries of a kind among the first ones are the first ones of that kind. -/
theorem filter_take_eq_take {l : List Pack} (f : Pack → Bool) (n : Nat) :
    (l.take n).filter f = (l.filter f).take ((l.take n).filter f).length :=
  List.prefix_iff_eq_take.mp ((List.take_prefix n l).filter f)

theorem packSymbols_count_filter (l : List Pack) (s : Nat) : (packSymbols l).count s =
    (packSymbols (l.filter fun e => !e.package)).count s + (packSymbols (l.filter Pack.package)).count s := by
  have h := ((List.filter_append_perm Pack.package l).flatMap_right Pack.contents).count_eq s
  rw [List.flatMap_append, List.count_append] at h
  rw [packSymbols, ← h]
  exact Nat.add_comm ..

/-- What the merging of a level gives (R200). -/
structure Merged (items list merged : List Pack) : Prop where
  perm     : merged.Perm (packagesFrom 0 list ++ items)
  before   : merged.Pairwise Pack.Before
  packages : merged.filter Pack.package = packagesFrom 0 list
  items    : merged.filter (fun e => !e.package) = items

/-- What the first entries of a level are: `m` items, and the packages of `2 * p` entries of the list before. -/
structure Taken (items list taken : List Pack) (m p : Nat) : Prop where
  itemsLe    : m ≤ items.length
  packagesLe : p ≤ (packagesFrom 0 list).length
  items      : taken.filter (fun e => !e.package) = items.take m
  packages   : taken.filter Pack.package = (packagesFrom 0 list).take p

section
variable {items list merged taken : List Pack} {depth n m p : Nat}

theorem PackRow.merged_next (hitems : ItemRow items) (h : PackRow items depth list) :
    Merged items list (mergePacks (packagesFrom 0 list) items) := by
  obtain ⟨hle, -, hpkg⟩ := packagesFrom_spec 0 list h.sorted
  obtain ⟨hperm, hbefore, hpackages, hrest⟩ :=
    mergePacks_spec hitems.before hitems.kind (fun q hq => (hpkg q hq).1) hle
  exact ⟨hperm, hbefore, hpackages, hrest⟩

/-- Symbols are no heavier than the packages that hold them. -/
theorem PackRow.package_heavy (h : PackRow items depth list) : ∀ q ∈ packagesFrom 0 list, ∀ s ∈ q.contents,
    ∃ x ∈ items, x.contents = [s] ∧ x.w ≤ q.w := by
  intro q hq s hs
  obtain ⟨-, a, ha, b, hb, hw, hc⟩ := ((packagesFrom_spec 0 list h.sorted).2.2 q hq).2
  rw [hc] at hs
  rcases List.mem_append.mp hs with hs | hs
  · obtain ⟨x, hx, hxs, hxw⟩ := h.heavy a ha s hs
    exact ⟨x, hx, hxs, by omega⟩
  · obtain ⟨x, hx, hxs, hxw⟩ := h.heavy b hb s hs
    exact ⟨x, hx, hxs, by omega⟩

theorem packSymbols_packages_count_le (list : List Pack) (s : Nat) :
    (packSymbols (packagesFrom 0 list)).count s ≤ (packSymbols list).count s := by
  have heq := packSymbols_take_packages _ 0 list (Nat.le_refl _)
  rw [List.take_length] at heq
  rw [heq]
  exact ((List.take_sublist _ list).flatMap Pack.contents).count_le s

theorem Merged.exists_taken (h : Merged items list merged) (hn : n ≤ merged.length) :
    ∃ m p, m + p = n ∧ Taken items list (merged.take n) m p := by
  have hitems : (merged.take n).filter (fun e => !e.package) =
      items.take ((merged.take n).filter fun e => !e.package).length := by
    conv_lhs => rw [filter_take_eq_take, h.items]
  have hpackages : (merged.take n).filter Pack.package =
      (packagesFrom 0 list).take ((merged.take n).filter Pack.package).length := by
    conv_lhs => rw [filter_take_eq_take, h.packages]
  have hcount := (List.filter_append_perm Pack.package (merged.take n)).length_eq
  rw [List.length_append, List.length_take, Nat.min_eq_left hn] at hcount
  have hitemsLe := congrArg List.length hitems
  have hpackagesLe := congrArg List.length hpackages
  rw [List.length_take] at hitemsLe hpackagesLe
  exact ⟨_, _, by omega, by omega, by omega, hitems, hpackages⟩

theorem Taken.count (h : Taken items list taken m p) (hitems : ItemRow items) (s : Nat) : (packSymbols taken).count s =
    ((packSymbols items).take m).count s + (packSymbols (list.take (2 * p))).count s := by
  rw [packSymbols_count_filter, h.items, h.packages, hitems.packSymbols_take,
    packSymbols_take_packages p 0 list h.packagesLe]

/-- With a package every item of its symbols is taken: the items are lighter, or precede it. -/
theorem Taken.item_taken (ht : Taken items list (merged.take n) m p) (hmerged : Merged items list merged)
    (hitems : ItemRow items) (h : PackRow items depth list) {s : Nat}
    (hs : (packSymbols (list.take (2 * p))).count s ≠ 0) : s ∈ (packSymbols items).take m := by
  rw [← packSymbols_take_packages p 0 list ht.packagesLe, ← ht.packages] at hs
  obtain ⟨q, hq, hsq⟩ := List.mem_flatMap.mp (List.count_pos_iff.mp (Nat.pos_of_ne_zero hs))
  obtain ⟨hqtaken, hqp⟩ := List.mem_filter.mp hq
  rw [ht.packages] at hq
  obtain ⟨x, hx, hxs, hxw⟩ := h.package_heavy q (List.mem_of_mem_take hq) s hsq
  have hxp := hitems.kind x hx
  have hxmem : x ∈ merged.take n ++ merged.drop n := by
    rw [List.take_append_drop]; exact hmerged.perm.mem_iff.mpr (List.mem_append_right _ hx)
  have hxtaken : x ∈ merged.take n := by
    refine (List.mem_append.mp hxmem).resolve_right fun hxdrop => ?_
    have hbefore := hmerged.before
    rw [← List.take_append_drop n merged] at hbefore
    have := ((List.pairwise_append.mp hbefore).2.2 q hqtaken x hxdrop).2 hqp hxp
    omega
  rw [← hitems.packSymbols_take, ← ht.items]
  exact List.mem_flatMap.mpr ⟨x, List.mem_filter.mpr ⟨hxtaken, by simp [hxp]⟩, by simp [hxs]⟩

/-- An item takes half of the code space of its symbol, packages half of what their symbols took a level before. -/
theorem one_sub_half_pow_add {c d : Nat} (hc : c ≤ 1) (h : c = 0 → d = 0) :
    (1 : ℚ) - (1 / 2) ^ (c + d) = 1 / 2 * c + 1 / 2 * (1 - (1 / 2) ^ d) := by
  obtain rfl | rfl : c = 0 ∨ c = 1 := by omega
  · simp [h rfl]
  · rw [pow_add]; push_cast; ring

theorem PackRow.next (hitems : ItemRow items) (h : PackRow items depth list) :
    PackRow items (depth + 1) (mergePacks (packagesFrom 0 list) items) := by
  have hmerged := h.merged_next hitems
  refine ⟨hmerged.before.imp And.left, fun e he s hs => ?_, fun s => ?_, fun n hn => ?_⟩
  · rcases List.mem_append.mp (hmerged.perm.mem_iff.mp he) with he | he
    · exact h.package_heavy e he s hs
    · exact (PackRow.first hitems).heavy e he s hs
  · rw [packSymbols_count_filter, hmerged.items, hmerged.packages]
    have hone := (PackRow.first hitems).bound s
    have hpackaged := packSymbols_packages_count_le list s
    have := h.bound s
    omega
  · obtain ⟨m, p, hcount, htaken⟩ := hmerged.exists_taken hn
    have hentry : ∀ s, (1 : ℚ) - (1 / 2) ^ (packSymbols ((mergePacks (packagesFrom 0 list) items).take n)).count s =
        1 / 2 * ((packSymbols items).take m).count s +
          1 / 2 * (1 - (1 / 2) ^ (packSymbols (list.take (2 * p))).count s) := fun s => by
      rw [htaken.count hitems]
      refine one_sub_half_pow_add (List.nodup_iff_count_le_one.mp (hitems.nodup.sublist (List.take_sublist ..)) s)
        fun hzero => ?_
      by_contra hne
      exact List.count_eq_zero.mp hzero (htaken.item_taken hmerged hitems h hne)
    have hhalf := (packagesFrom_spec 0 list h.sorted).2.1
    have hpackagesLe := htaken.packagesLe
    simp only [hentry]
    rw [List.sum_map_add, List.sum_map_mul_left, List.sum_map_mul_left, sum_count_take hitems.nodup
      (hitems.length_symbols ▸ htaken.itemsLe), h.share (2 * p) (by omega), ← hcount]
    push_cast
    ring

end

theorem PackRow.levels {items : List Pack} (hitems : ItemRow items) : ∀ (k depth : Nat) (list : List Pack),
    PackRow items depth list → PackRow items (depth + k) (packLevels items k list)
  | 0, _, _, h => h
  | k + 1, depth, _, h => by
    have := PackRow.levels hitems k (depth + 1) _ (h.next hitems)
    rwa [Nat.add_assoc, Nat.add_comm 1] at this

end Sys2Proof.Machine
end

section

namespace Sys2Proof.Machine

/-! #### The items, and the lengths -/

theorem insertNode_sorted (x : HNode) : ∀ {pool : List HNode}, pool.Pairwise (fun a b => a.w ≤ b.w) →
    (insertNode x pool).Pairwise fun a b => a.w ≤ b.w
  | [], _ => List.pairwise_singleton ..
  | y :: rest, h => by
    obtain ⟨hy, hrest⟩ := List.pairwise_cons.mp h
    rw [insertNode]
    split
    · rename_i hle
      simp only [Bool.or_eq_true, Bool.and_eq_true, decide_eq_true_eq, beq_iff_eq] at hle
      refine List.pairwise_cons.mpr ⟨fun z hz => ?_, h⟩
      rcases List.mem_cons.mp hz with rfl | hz
      · omega
      · have := hy z hz; omega
    · rename_i hle
      simp only [Bool.or_eq_true, Bool.and_eq_true, decide_eq_true_eq, beq_iff_eq] at hle
      refine List.pairwise_cons.mpr ⟨fun z hz => ?_, insertNode_sorted x hrest⟩
      rcases List.mem_cons.mp ((insertNode_perm x rest).mem_iff.mp hz) with rfl | hz
      · omega
      · exact hy z hz

theorem foldl_insertNode_sorted : ∀ (l : List (Nat × Nat)) {pool : List HNode}, pool.Pairwise (fun a b => a.w ≤ b.w) →
    (l.foldl (fun pool sf => insertNode (leafNode sf) pool) pool).Pairwise fun a b => a.w ≤ b.w
  | [], _, h => h
  | sf :: l, _, h => foldl_insertNode_sorted l (insertNode_sorted (leafNode sf) h)

theorem leaves_sorted (freq : List Nat) : (leaves freq).Pairwise fun a b => a.w ≤ b.w :=
  foldl_insertNode_sorted (used freq) .nil

theorem leaves_ids_perm (freq : List Nat) : ((leaves freq).map HNode.id).Perm ((used freq).map Prod.fst) := by
  have h := (leaves_perm freq).map HNode.id
  rwa [List.map_map] at h

theorem packSymbols_itemOf (ranked : List HNode) : packSymbols (itemOf ranked) = ranked.map HNode.id := by
  rw [packSymbols, itemOf, List.flatMap_map, ← List.map_eq_flatMap]
  exact (List.map_map ..).symm.trans (congrArg _ (List.zipIdx_map_fst ..))

theorem itemRow_leaves (freq : List Nat) : ItemRow (itemOf (leaves freq)) where
  before := by
    have hsorted := leaves_sorted freq
    rw [← List.zipIdx_map_fst 0 (leaves freq), List.pairwise_map] at hsorted
    exact List.pairwise_map.mpr (hsorted.imp fun h => ⟨h, fun hp => by cases hp⟩)
  kind := fun x hx => by
    obtain ⟨_, -, rfl⟩ := List.mem_map.mp hx
    rfl
  single := by
    rw [packSymbols_itemOf, itemOf, List.map_map, List.map_map]
    conv_rhs => rw [← List.zipIdx_map_fst 0 (leaves freq), List.map_map]
    rfl
  nodup := by
    rw [packSymbols_itemOf]
    exact (leaves_ids_perm freq).nodup_iff.mpr (used_nodup freq)

/-- The last list of package-merge (R200). -/
theorem packRow_packList (freq : List Nat) {limit : Nat} (h : 1 ≤ limit) :
    PackRow (itemOf (leaves freq)) limit (packList freq limit) := by
  have hitems := itemRow_leaves freq
  have := PackRow.levels hitems (limit - 1) 1 _ (PackRow.first hitems)
  rwa [show 1 + (limit - 1) = limit by omega] at this

/-- Counts that share out the code space among at least two symbols are positive. -/
theorem count_ne_zero_of_share {ids : List Nat} {c : Nat → Nat} (hsum : (ids.map fun s => (1 / 2 : ℚ) ^ c s).sum = 1)
    (htwo : 2 ≤ ids.length) {s : Nat} (hs : s ∈ ids) : c s ≠ 0 := by
  intro hzero
  have herase := ((List.perm_cons_erase hs).map fun s => (1 / 2 : ℚ) ^ c s).sum_eq
  rw [hsum, List.map_cons, List.sum_cons, hzero, pow_zero] at herase
  have hrest : (ids.erase s).map (fun s => (1 / 2 : ℚ) ^ c s) ≠ [] := by
    rw [ne_eq, List.map_eq_nil_iff, ← List.length_eq_zero_iff, List.length_erase_of_mem hs]
    omega
  have hpos := List.sum_pos _ (fun x hx => by obtain ⟨t, -, rfl⟩ := List.mem_map.mp hx; positivity) hrest
  linarith

/-- The same shares as numbers of codes of length `limit`. -/
theorem sum_pow_sub_of_share {ids : List Nat} {c : Nat → Nat} {limit : Nat}
    (hsum : (ids.map fun s => (1 / 2 : ℚ) ^ c s).sum = 1) (hle : ∀ s, c s ≤ limit) :
    (ids.map fun s => 2 ^ (limit - c s)).sum = 2 ^ limit := by
  have hentry : ∀ s, ((2 ^ (limit - c s) : Nat) : ℚ) = 2 ^ limit * (1 / 2) ^ c s := fun s => by
    push_cast
    rw [pow_sub₀ _ two_ne_zero (hle s), one_div, inv_pow]
  have hcast : (((ids.map fun s => 2 ^ (limit - c s)).sum : Nat) : ℚ) = 2 ^ limit := by
    rw [Nat.cast_list_sum, List.map_map, Function.comp_def, List.map_congr_left fun s _ => hentry s,
      List.sum_map_mul_left, hsum, mul_one]
  exact_mod_cast hcast

theorem sum_one_sub (f : Nat → ℚ) (ids : List Nat) :
    (ids.map fun s => 1 - f s).sum = ids.length - (ids.map f).sum := by
  induction ids with
  | nil => simp
  | cons s ids ih => simp only [List.map_cons, List.sum_cons, ih, List.length_cons]; push_cast; ring

/-- The entries package-merge takes, as many as it should, share out the code space among the used symbols. -/
theorem PackRow.share_used {freq : List Nat} {depth : Nat} {list : List Pack}
    (h : PackRow (itemOf (leaves freq)) depth list) (hused : 2 ≤ (used freq).length)
    (htake : 2 * (used freq).length - 2 ≤ list.length) :
    (((used freq).map Prod.fst).map fun s =>
      (1 / 2 : ℚ) ^ (packSymbols (list.take (2 * (used freq).length - 2))).count s).sum = 1 := by
  have hshare := h.share _ htake
  rw [packSymbols_itemOf, ((leaves_ids_perm freq).map _).sum_eq, sum_one_sub, List.length_map] at hshare
  push_cast [show 2 ≤ 2 * (used freq).length by omega] at hshare
  linarith

/-- Only used symbols occur in a list of package-merge (R200). -/
theorem PackRow.count_unused {freq : List Nat} {depth : Nat} {list : List Pack}
    (h : PackRow (itemOf (leaves freq)) depth list) (n : Nat) {s : Nat} (hs : s ∉ (used freq).map Prod.fst) :
    (packSymbols (list.take n)).count s = 0 := by
  refine List.count_eq_zero.mpr fun hmem => hs ?_
  obtain ⟨e, he, hse⟩ := List.mem_flatMap.mp hmem
  obtain ⟨x, hx, hxs, -⟩ := h.heavy e (List.mem_of_mem_take he) s hse
  have : s ∈ packSymbols (itemOf (leaves freq)) := List.mem_flatMap.mpr ⟨x, hx, by simp [hxs]⟩
  rwa [packSymbols_itemOf, (leaves_ids_perm freq).mem_iff] at this

theorem PackRow.count_take_le {items : List Pack} {depth : Nat} {list : List Pack} (h : PackRow items depth list)
    (n s : Nat) : (packSymbols (list.take n)).count s ≤ depth :=
  Nat.le_trans (((List.take_sublist n list).flatMap Pack.contents).count_le s) (h.bound s)

/-- Lengths that are zero but at some symbols, as lengths spread over the symbols. -/
theorem map_range_eq_spreadLens {ids : List Nat} {f : Nat → Nat} (n : Nat) (hnodup : ids.Nodup)
    (hzero : ∀ s, s ∉ ids → f s = 0) : (List.range n).map f = spreadLens n (ids.map fun s => (s, f s)) := by
  have hkeys : (ids.map fun s => (s, f s)).map Prod.fst = ids := by rw [List.map_map]; exact List.map_id ids
  refine List.map_congr_left fun s _ => ?_
  by_cases hs : s ∈ ids
  · rw [lookup_of_mem (p := (s, f s)) (hkeys.symm ▸ hnodup) (List.mem_map.mpr ⟨s, hs, rfl⟩)]
    rfl
  · rw [lookup_of_notMem (by rwa [hkeys]), hzero s hs]
    rfl

/-- Package-merge lengths are within the limit and fill the code space exactly (R193, R200). -/
theorem packageMergeLengths_spec {freq len : List Nat} {limit : Nat} (hlimit : 1 ≤ limit)
    (hused : 2 ≤ (used freq).length) (h : packageMergeLengths freq limit = some len) :
    len.length = freq.length ∧ (∀ l ∈ len, l ≤ limit) ∧ kraftSum limit len = 2 ^ limit := by
  have hrow := packRow_packList freq hlimit
  simp only [packageMergeLengths] at h
  split at h
  · cases h
  rename_i htake
  injection h with h
  rw [← List.flatMap_def] at h
  change ((List.range freq.length).map fun s => (packSymbols _).count s) = len at h
  have hsum := hrow.share_used hused (by omega)
  have hbound := hrow.count_take_le (2 * (used freq).length - 2)
  have hspread := map_range_eq_spreadLens freq.length (used_nodup freq)
    fun s => hrow.count_unused (2 * (used freq).length - 2) (s := s)
  rw [h] at hspread
  refine ⟨by rw [hspread, spreadLens_length], fun l hl => ?_, ?_⟩
  · rw [← h] at hl
    obtain ⟨s, -, rfl⟩ := List.mem_map.mp hl
    exact hbound s
  · rw [hspread, kraftSum_spreadLens, List.map_map]
    · exact sum_pow_sub_of_share hsum hbound
    · rw [List.map_map]
      exact (List.map_id _).symm ▸ used_nodup freq
    · intro p hp
      obtain ⟨s, hs, rfl⟩ := List.mem_map.mp hp
      obtain ⟨q, hq, rfl⟩ := List.mem_map.mp hs
      exact ⟨show q.1 < freq.length from used_lt hq, count_ne_zero_of_share hsum (by rwa [List.length_map]) hs⟩

/-! ### What a construction makes -/

/-- The lengths a construction makes a table of: within the limit, filling the code space (R193, R196, R206). -/
structure GoodLens (limit : Nat) (len : List Nat) : Prop where
  le    : ∀ l ∈ len, l ≤ limit
  kraft : kraftSum limit len = 2 ^ limit

theorem buildLen_good {limit : Nat} {len : List Nat} {t : Table} (h : buildLen limit len = .table t) :
    t = Table.ofLens limit len ∧ GoodLens limit len := by
  obtain ⟨ht, hle, hkraft⟩ := buildLen_table h
  exact ⟨ht, hle, hkraft⟩

theorem buildFreq_good {P : Config.Params} {limit : Nat} {freq : List Nat} {t : Table} (hlimit : 1 ≤ limit)
    (h : buildFreq P limit freq = .table t) :
    ∃ len, t = Table.ofLens limit len ∧ len.length = freq.length ∧ GoodLens limit len := by
  simp only [buildFreq] at h
  split at h
  · cases h
  rename_i hguard
  have hused : 2 ≤ (used freq).length := by
    simp only [Bool.or_eq_true, decide_eq_true_eq, not_or] at hguard
    omega
  split at h
  · rename_i hmax
    cases h
    obtain ⟨l, r, hlengths, -⟩ := huffmanLengths_spec P hused
    exact ⟨_, rfl, by rw [hlengths, spreadLens_length], (maxLen_le_iff _ _).mp hmax, huffmanLengths_kraft P hused hmax⟩
  · split at h
    · rename_i len' hpm
      cases h
      obtain ⟨hlen, hle, hkraft⟩ := packageMergeLengths_spec hlimit hused hpm
      exact ⟨len', rfl, hlen, hle, hkraft⟩
    · cases h

/-- A table made of such lengths decodes every bit string (R34, R208). -/
theorem GoodLens.complete {limit : Nat} {len : List Nat} (h : GoodLens limit len) (h1 : 1 ≤ limit) (h15 : limit ≤ 15) :
    (Table.ofLens limit len).Complete where
  used := two_le_used_of_kraft h1 h.kraft
  limit := h.le
  kraft := h.kraft
  codes := assignCodes_eq_canonical len fun l hl => Nat.le_trans (h.le l hl) h15

theorem GoodLens.wf {limit : Nat} {len : List Nat} (h : GoodLens limit len) (h1 : 1 ≤ limit) (h15 : limit ≤ 15)
    (hn : len.length ≤ 288) : (Table.ofLens limit len).Wf := fun _ =>
  ⟨rfl, hn, h1, h15, List.all_eq_true.mpr fun l hl => decide_eq_true (h.le l hl), rfl, rfl⟩

theorem fixedLit_good : GoodLens 15 fixedLitLens where
  le := fun l hl => by simp only [fixedLitLens, List.mem_append, List.mem_replicate] at hl; omega
  kraft := by
    simp only [fixedLitLens, kraftSum, List.map_append, List.map_replicate, List.sum_append, List.sum_replicate]
    decide

theorem fixedDist_good : GoodLens 15 fixedDistLens where
  le := fun l hl => by rw [List.eq_of_mem_replicate hl]; decide
  kraft := by
    simp only [fixedDistLens, kraftSum, List.map_replicate, List.sum_replicate]
    decide

end Sys2Proof.Machine
end

section

namespace Sys2Proof.Machine

/-! ### What every step keeps of the slots -/

/-- Three properties of slots 0 to 2 are carried through every step: the invariant of a table memory, completeness, and
the widths of its registers. What they have in common is all that the steps need: a discard keeps the property, a
construction's table has it, and so has an invalid slot whose registers are within their widths. -/
structure TableRule (Q : Table → Prop) : Prop where
  discarded : ∀ t : Table, Q t → Q { t with valid := false }
  built     : ∀ (limit : Nat) (len : List Nat), 1 ≤ limit → limit ≤ 15 → len.length ≤ 288 → GoodLens limit len →
    Q (Table.ofLens limit len)
  invalid   : ∀ t : Table, t.valid = false → t.n < 2 ^ 9 → t.limit < 2 ^ 4 → t.maxlen < 2 ^ 4 → Q t

/-- Slots 0 to 2 have a property. -/
abbrev Hc.Slots (Q : Table → Prop) (h : Hc) : Prop := Q h.slot0 ∧ Q h.slot1 ∧ Q h.slot2

theorem tableRule_wf : TableRule Table.Wf where
  discarded := fun _ _ h => absurd h (by simp)
  built := fun _ _ h1 h15 hn hgood => hgood.wf h1 h15 hn
  invalid := fun _ hinvalid _ _ _ h => absurd h (by simp [hinvalid])

theorem tableRule_complete : TableRule fun t => t.valid = true → t.Complete where
  discarded := fun _ _ h => absurd h (by simp)
  built := fun _ _ h1 h15 _ hgood _ => hgood.complete h1 h15
  invalid := fun _ hinvalid _ _ _ h => absurd h (by simp [hinvalid])

theorem tableRule_widths : TableRule fun t => t.n < 2 ^ 9 ∧ t.limit < 2 ^ 4 ∧ t.maxlen < 2 ^ 4 where
  discarded := fun _ h => h
  built := fun limit len _ h15 hn hgood =>
    ⟨Nat.lt_of_le_of_lt hn (by decide), Nat.lt_succ_of_le h15,
      Nat.lt_succ_of_le (Nat.le_trans ((maxLen_le_iff _ _).mpr hgood.le) h15)⟩
  invalid := fun _ _ hn hlimit hmaxlen => ⟨hn, hlimit, hmaxlen⟩

theorem Hc.slots_iff (Q : Table → Prop) (s : State) : s.hc.Slots Q ↔ ∀ k, k < 3 → Q (s.table k) := by
  constructor
  · rintro ⟨h0, h1, h2⟩ k hk
    match k, hk with
    | 0, _ => exact h0
    | 1, _ => exact h1
    | 2, _ => exact h2
  · exact fun h => ⟨h 0 (by decide), h 1 (by decide), h 2 (by decide)⟩

variable {Q : Table → Prop}

theorem slots_setTable {s : State} {t : Table} (k : Nat) (hs : s.hc.Slots Q) (ht : Q t) : (s.setTable k t).hc.Slots Q := by
  obtain ⟨h0, h1, h2⟩ := hs
  match k with
  | 0 => exact ⟨ht, h1, h2⟩
  | 1 => exact ⟨h0, ht, h2⟩
  | 2 => exact ⟨h0, h1, ht⟩
  | _ + 3 => exact ⟨h0, h1, h2⟩

theorem slots_discard (hQ : TableRule Q) {s : State} (k : Nat) (hs : s.hc.Slots Q) : (s.discard k).hc.Slots Q := by
  obtain ⟨h0, h1, h2⟩ := hs
  match k with
  | 0 => exact ⟨hQ.discarded _ h0, h1, h2⟩
  | 1 => exact ⟨h0, hQ.discarded _ h1, h2⟩
  | 2 => exact ⟨h0, h1, hQ.discarded _ h2⟩
  | _ + 3 => exact ⟨h0, h1, h2⟩

theorem slots_blank (hQ : TableRule Q) (g : Nat) : (Hc.reset g).Slots Q :=
  have h : Q Table.blank := hQ.invalid _ rfl (by decide) (by decide) (by decide)
  ⟨h, h, h⟩

/-- A slot that a faulted session leaves behind holds a table a construction could have built, or none (R34, U13). -/
theorem freeTable_rule (hQ : TableRule Q) (g k : Nat) : Q (freeTable g k) := by
  have hempty : Q { valid := false, n := (Config.freeN g k).toNat, limit := (Config.freeLimit g k).toNat
                    maxlen := (Config.freeMaxlen g k).toNat, len := [], code := [] } :=
    hQ.invalid _ rfl (Config.freeN g k).isLt (Config.freeLimit g k).isLt (Config.freeMaxlen g k).isLt
  unfold freeTable
  simp only
  split
  · rename_i hguard
    simp only [Bool.and_eq_true, decide_eq_true_eq] at hguard
    obtain ⟨⟨⟨-, h1⟩, -⟩, hn⟩ := hguard
    split
    · rename_i t hbuilt
      obtain ⟨rfl, hgood⟩ := buildLen_good hbuilt
      exact hQ.built _ _ h1 (Nat.le_of_lt_succ (Config.freeLimit g k).isLt) hn hgood
    · exact hempty
  · exact hempty

theorem slots_forget (hQ : TableRule Q) (s : State) : s.forget.hc.Slots Q :=
  ⟨freeTable_rule hQ _ _, freeTable_rule hQ _ _, freeTable_rule hQ _ _⟩

theorem slots_putBuilt_buildLen (hQ : TableRule Q) {s : State} (k : Nat) {limit : Nat} {len : List Nat} (h1 : 1 ≤ limit)
    (h15 : limit ≤ 15) (hn : len.length ≤ 288) (hs : s.hc.Slots Q) :
    (s.putBuilt k (buildLen limit len)).hc.Slots Q := by
  cases hb : buildLen limit len with
  | table t =>
    obtain ⟨rfl, hgood⟩ := buildLen_good hb
    exact slots_setTable k hs (hQ.built _ _ h1 h15 hn hgood)
  | failed info => exact slots_discard hQ k hs

theorem slots_putBuilt_buildFreq (hQ : TableRule Q) {s : State} (k : Nat) {P : Config.Params} {limit : Nat}
    {freq : List Nat} (h1 : 1 ≤ limit) (h15 : limit ≤ 15) (hn : freq.length ≤ 288) (hs : s.hc.Slots Q) :
    (s.putBuilt k (buildFreq P limit freq)).hc.Slots Q := by
  cases hb : buildFreq P limit freq with
  | table t =>
    obtain ⟨len, rfl, hlen, hgood⟩ := buildFreq_good h1 hb
    exact slots_setTable k hs (hQ.built _ _ h1 h15 (hlen ▸ hn) hgood)
  | failed info => exact slots_discard hQ k hs

end Sys2Proof.Machine
end

section

namespace Sys2Proof.Machine

/-! ### Bits -/

theorem lowBits_lt {w : Nat} (n : Nat) (v : BitVec w) : (lowBits n v).toNat < 2 ^ n := by
  have hmask : (BitVec.ofNat w (2 ^ n - 1)).toNat ≤ 2 ^ n - 1 := by
    rw [BitVec.toNat_ofNat]; exact Nat.mod_le _ _
  have hand : (lowBits n v).toNat ≤ (BitVec.ofNat w (2 ^ n - 1)).toNat := by
    rw [lowBits, BitVec.toNat_and]; exact Nat.and_le_right
  have := Nat.two_pow_pos n
  omega

theorem revBits_lt : ∀ n v : Nat, revBits n v < 2 ^ n
  | 0, _ => Nat.one_pos
  | n + 1, v => by
    have ih := revBits_lt n (v / 2)
    have hbit : v % 2 * 2 ^ n ≤ 1 * 2 ^ n := Nat.mul_le_mul_right _ (by omega)
    rw [revBits, pow_succ]
    omega

/-- The bits of a value enter the stream in either order, no more than there are (R66, R67). -/
theorem Bc.valueBits_lt (P : Config.Params) (c : Bc) {n : Nat} {x : Word} (h : x.toNat < 2 ^ n) :
    (c.valueBits P n x).toNat < 2 ^ n := by
  unfold Bc.valueBits
  split
  · rw [BitVec.toNat_ofNat]
    exact Nat.lt_of_le_of_lt (Nat.mod_le _ _) (revBits_lt n _)
  all_goals exact h

theorem Bc.peek_lt (P : Config.Params) (c : Bc) (n : Nat) : (c.peek P n).toNat < 2 ^ n := by
  refine c.valueBits_lt P ?_
  rw [BitVec.toNat_setWidth]
  exact Nat.lt_of_le_of_lt (Nat.mod_le _ _) (lowBits_lt n c.acc)

/-- No bit of the accumulator is set above the pending ones (R25 (a)). -/
theorem acc_shift_eq_zero (acc : BitVec 64) (n : Nat) : acc >>> n = 0 ↔ acc.toNat < 2 ^ n := by
  rw [← BitVec.toNat_inj, BitVec.toNat_ushiftRight, Nat.shiftRight_eq_div_pow]
  simp [Nat.div_eq_zero_iff]

theorem acc_join_lt {acc x : BitVec 64} {n k : Nat} (hacc : acc.toNat < 2 ^ n) (hx : x.toNat < 2 ^ k) :
    (acc ||| x <<< n).toNat < 2 ^ (n + k) := by
  rw [BitVec.toNat_or, BitVec.toNat_shiftLeft]
  refine Nat.or_lt_two_pow (Nat.lt_of_lt_of_le hacc (Nat.pow_le_pow_right (by decide) (Nat.le_add_right n k))) ?_
  refine Nat.lt_of_le_of_lt (Nat.mod_le _ _) ?_
  rw [Nat.shiftLeft_eq, pow_add, Nat.mul_comm]
  exact Nat.mul_lt_mul_of_pos_left hx (Nat.two_pow_pos n)

theorem acc_shift_lt {acc : BitVec 64} {n k : Nat} (hacc : acc.toNat < 2 ^ n) : (acc >>> k).toNat < 2 ^ (n - k) := by
  rw [BitVec.toNat_ushiftRight, Nat.shiftRight_eq_div_pow]
  rcases Nat.le_total k n with hk | hk
  · refine Nat.div_lt_of_lt_mul ?_
    rwa [← pow_add, Nat.add_sub_cancel' hk]
  · rw [Nat.div_eq_of_lt (Nat.lt_of_lt_of_le hacc (Nat.pow_le_pow_right (by decide) hk))]
    exact Nat.two_pow_pos _

/-! ### The invariant of the channel (R25) -/

theorem Bc.emit_acc : ∀ (k : Nat) (c : Bc), (Bc.emit k c).1.acc = c.acc >>> (8 * k)
  | 0, _ => by simp [Bc.emit]
  | k + 1, c => by
    rw [Bc.emit]
    simp only [Bc.emit_acc k, ← BitVec.shiftRight_add]
    congr 1
    omega

/-- A write keeps the channel's invariant (R145). -/
theorem Bc.wf_write (P : Config.Params) {c : Bc} (v : Word) (n : Nat) (hc : c.Wf) (hmode : c.mode = .write) :
    (c.write P v n).1.Wf := by
  obtain ⟨hacc, -, hwrite, -⟩ := hc
  obtain ⟨hnbits, htotal, hnbytes⟩ := hwrite hmode
  obtain ⟨-, hnbits', hnbytes', htotal', hmode', -⟩ := Bc.write_spec P c v n
  have hmode'' := hmode'.trans hmode
  have hvalue : ((c.valueBits P n (lowBits n v)).setWidth 64).toNat < 2 ^ n := by
    rw [BitVec.toNat_setWidth]
    exact Nat.lt_of_le_of_lt (Nat.mod_le _ _) (c.valueBits_lt P (lowBits_lt n v))
  have hjoin := acc_join_lt ((acc_shift_eq_zero _ _).mp hacc) hvalue
  have hacc' : (c.write P v n).1.acc.toNat < 2 ^ (c.write P v n).1.nbits := by
    have hshift := acc_shift_lt (k := 8 * ((c.nbits + n) / 8)) hjoin
    rw [show c.nbits + n - 8 * ((c.nbits + n) / 8) = (c.nbits + n) % 8 by omega] at hshift
    rwa [hnbits', Bc.write, Bc.emit_acc]
  refine ⟨(acc_shift_eq_zero _ _).mpr hacc', by omega, fun _ => by omega, fun h => ?_⟩
  rw [hmode''] at h
  cases h

/-- Alignment of a writing channel (R156). -/
theorem Bc.wf_alignWrite (P : Config.Params) {c : Bc} (hc : c.Wf) (hmode : c.mode = .write) : (c.alignWrite P).1.Wf :=
  Bc.wf_write P 0 c.padding hc hmode

/-- A reading channel's invariant, in one mode (R25). -/
theorem Bc.wf_read_iff {c : Bc} (hmode : c.mode = .read) :
    c.Wf ↔ c.acc.toNat < 2 ^ c.nbits ∧ c.nbytes * 8 = c.total + c.nbits ∧ c.nbits ≤ 39 := by
  rw [Bc.Wf, acc_shift_eq_zero, hmode]
  constructor
  · rintro ⟨hacc, -, -, hread⟩
    obtain ⟨-, hbytes, hbits⟩ := hread rfl
    exact ⟨hacc, hbytes, hbits⟩
  · rintro ⟨hacc, hbytes, hbits⟩
    exact ⟨hacc, by omega, fun h => by (cases h), fun _ => ⟨by omega, hbytes, hbits⟩⟩

/-- A byte taken while fewer than 32 bits are pending (R148). -/
theorem Bc.wf_takeByte {c : Bc} (b : Byte) (hc : c.Wf) (hmode : c.mode = .read) (h : c.nbits < 32) :
    (c.takeByte b).Wf := by
  obtain ⟨hacc, hbytes, -⟩ := (Bc.wf_read_iff hmode).mp hc
  refine (Bc.wf_read_iff (c := c.takeByte b) hmode).mpr ⟨?_, ?_, ?_⟩
  · refine acc_join_lt hacc ?_
    rw [BitVec.toNat_setWidth]
    exact Nat.lt_of_le_of_lt (Nat.mod_le _ _) (c.ordered b).isLt
  · simp only [Bc.takeByte]; omega
  · simp only [Bc.takeByte]; omega

theorem Bc.wf_need {n : Nat} (hn : n ≤ 32) : ∀ (src : List Byte) {c : Bc}, c.Wf → c.mode = .read →
    (Bc.need n c src).1.Wf
  | [], _, hc, _ => hc
  | b :: rest, c, hc, hmode => by
    rw [Bc.need]
    split
    · exact Bc.wf_need hn rest (Bc.wf_takeByte b hc hmode (by omega)) hmode
    · exact hc

theorem Bc.wf_skip {c : Bc} {n : Nat} (hc : c.Wf) (hmode : c.mode = .read) (hn : n ≤ c.nbits) : (c.skip n).Wf := by
  obtain ⟨hacc, hbytes, hbits⟩ := (Bc.wf_read_iff hmode).mp hc
  refine (Bc.wf_read_iff (c := c.skip n) hmode).mpr ⟨acc_shift_lt hacc, ?_, ?_⟩ <;> simp only [Bc.skip] <;> omega

theorem Bc.wf_alignRead {c : Bc} (hc : c.Wf) (hmode : c.mode = .read) : c.alignRead.Wf :=
  Bc.wf_skip hc hmode (Nat.mod_le _ _)

theorem Bc.wf_init (mode : Mode) (order : Order) : (Bc.init mode order).Wf := by
  cases mode <;> cases order <;> decide

end Sys2Proof.Machine
end

section

namespace Sys2Proof.Machine

/-! ### What reading does to the channel -/

/-- What reading does to a channel (R147, R148): bytes join the pending bits and bits are consumed, nothing else
changes. -/
structure Bc.Reads (c c' : Bc) : Prop where
  mode    : c'.mode = c.mode
  order   : c'.order = c.order
  opened  : c'.opened = c.opened
  flushed : c'.flushed = c.flushed
  wf      : c.Wf → c.mode = .read → c'.Wf

theorem Bc.Reads.refl (c : Bc) : c.Reads c := ⟨rfl, rfl, rfl, rfl, fun h _ => h⟩

theorem Bc.Reads.trans {c c' c'' : Bc} (h : c.Reads c') (h' : c'.Reads c'') : c.Reads c'' where
  mode := h'.mode.trans h.mode
  order := h'.order.trans h.order
  opened := h'.opened.trans h.opened
  flushed := h'.flushed.trans h.flushed
  wf := fun hc hmode => h'.wf (h.wf hc hmode) (h.mode.trans hmode)

theorem Bc.reads_need {n : Nat} (hn : n ≤ 32) (c : Bc) (src : List Byte) : c.Reads (Bc.need n c src).1 := by
  obtain ⟨k, -, -, -, -, -, hmode, horder, hopened, hflushed, -, -⟩ := Bc.need_spec n src c
  exact ⟨hmode, horder, hopened, hflushed, Bc.wf_need hn src⟩

theorem Bc.reads_skip {c : Bc} {n : Nat} (hn : n ≤ c.nbits) : c.Reads (c.skip n) :=
  ⟨rfl, rfl, rfl, rfl, fun hc hmode => Bc.wf_skip hc hmode hn⟩

/-- A look-up of lengths below 16 (R214, R221): it only reads, and a code it finds is pending. -/
theorem Table.lookupFrom_spec (P : Config.Params) (t : Table) : ∀ (k l : Nat) (c : Bc) (src : List Byte), l + k ≤ 16 →
    c.Reads (t.lookupFrom P k l c src).1.1 ∧
      ∀ s len, (t.lookupFrom P k l c src).2 = .found s len →
        len ≤ 15 ∧ len ≤ (t.lookupFrom P k l c src).1.1.nbits
  | 0, _, c, _, _ => ⟨.refl c, fun _ _ h => by cases h⟩
  | k + 1, l, c, src, hk => by
    have hneed := Bc.reads_need (show l ≤ 32 by omega) c src
    rw [Table.lookupFrom]
    split
    · exact ⟨hneed, fun _ _ h => by cases h⟩
    · rename_i henough
      split
      · refine ⟨hneed, fun s len h => ?_⟩
        cases h
        exact ⟨by omega, Nat.not_lt.mp henough⟩
      · obtain ⟨hrest, hfound⟩ := t.lookupFrom_spec P k (l + 1) (Bc.need l c src).1 (Bc.need l c src).2 (by omega)
        exact ⟨hneed.trans hrest, hfound⟩

/-! ### What the encoder's operations do to the channel -/

/-- What writing does to a channel: bits move through it, nothing else changes. -/
structure Bc.Written (c c' : Bc) : Prop where
  mode    : c'.mode = c.mode
  order   : c'.order = c.order
  opened  : c'.opened = c.opened
  flushed : c'.flushed = c.flushed
  wf      : c.Wf → c.mode = .write → c'.Wf

theorem Bc.Written.trans {c c' c'' : Bc} (h : c.Written c') (h' : c'.Written c'') : c.Written c'' where
  mode := h'.mode.trans h.mode
  order := h'.order.trans h.order
  opened := h'.opened.trans h.opened
  flushed := h'.flushed.trans h.flushed
  wf := fun hc hmode => h'.wf (h.wf hc hmode) (h.mode.trans hmode)

theorem Bc.written_write (P : Config.Params) (c : Bc) (v : Word) (n : Nat) : c.Written (c.write P v n).1 := by
  obtain ⟨-, -, -, -, hmode, horder, hopened, hflushed⟩ := Bc.write_spec P c v n
  exact ⟨hmode, horder, hopened, hflushed, Bc.wf_write P v n⟩

theorem Bc.written_runOps (P : Config.Params) : ∀ (ops : List WOp) (c : Bc), c.Written (runOps P c ops).1
  | [], _ => ⟨rfl, rfl, rfl, rfl, fun h _ => h⟩
  | .bits v n :: rest, c => (Bc.written_write P c v n).trans (Bc.written_runOps P rest _)
  | .align :: rest, c => (Bc.written_write P c 0 c.padding).trans (Bc.written_runOps P rest _)

/-! ### The window (R29, R30) -/

/-- A push keeps the window's invariant. -/
theorem Sw.inv_push {w : Sw} (b : Byte) (hw : w.Wf) (hcap : w.cap ≠ 0) : (w.push b).Wf := by
  obtain ⟨hcap', hfill, hform, hrange, hwritten⟩ := hw
  have hpos : 0 < w.cap := Nat.pos_of_ne_zero hcap
  have hcell : w.cursor % w.cap < w.cap := Nat.mod_lt _ hpos
  refine ⟨.inr (by simp only [Sw.push]; omega), ?_, Mem.wf_set _ _ hform, Mem.below_set _ (by omega) hrange,
    fun a ha => ?_⟩
  · simpa only [Mem.uncleared, Sw.push, Mem.set_fill] using hfill
  · have hset : (w.push b).win.cells = Mem.insertCell (w.cursor % w.cap) b w.win.cells := by
      cases hf : w.win.fill with
      | all u => simp [Mem.uncleared, hf] at hfill
      | unspecified g => simp only [Sw.push, Mem.set, hf]
    rw [hset]
    by_cases haw : a = w.cursor % w.cap
    · rw [haw, Mem.find_insertCell_same]; rfl
    · rw [Mem.find_insertCell_other _ haw]
      refine hwritten a ?_
      simp only [Sw.hist, Sw.push] at ha ⊢
      rcases Nat.lt_or_ge w.cursor w.cap with hlt | hge
      · rw [Nat.mod_eq_of_lt hlt] at haw; omega
      · omega

theorem Sw.inv_pushAll : ∀ (bytes : List Byte) {w : Sw}, w.Wf → w.cap ≠ 0 → (w.pushAll bytes).Wf
  | [], _, hw, _ => hw
  | b :: rest, _, hw, hcap => Sw.inv_pushAll rest (Sw.inv_push b hw hcap) hcap

theorem Sw.inv_copyLoop (d : Nat) : ∀ (l : Nat) {w : Sw}, w.Wf → w.cap ≠ 0 → (Sw.copyLoop d l w).Wf
  | 0, _, hw, _ => hw
  | l + 1, _, hw, hcap => Sw.inv_copyLoop d l (Sw.inv_push _ hw hcap) hcap

/-- An init command leaves a window with nothing in it. -/
theorem Sw.inv_init {w : Sw} {capacity : Nat} (hw : w.Wf) (hlo : 4096 ≤ capacity) (hhi : capacity ≤ 65536) :
    (w.init capacity).Wf :=
  ⟨.inr ⟨hlo, hhi⟩, hw.fill, hw.form, hw.range, fun a ha => by simp [Sw.hist, Sw.init] at ha⟩

theorem Sw.inv_reset (g : Nat) : (Sw.reset g).Wf :=
  ⟨.inl ⟨rfl, rfl⟩, rfl, rfl, rfl, fun a ha => by simp [Sw.hist, Sw.reset] at ha⟩

/-! ### The MatchFinder (R36, R236 to R246) -/

theorem commonLen_le : ∀ (limit : Nat) (xs ys : List Byte), commonLen limit xs ys ≤ limit
  | 0, _, _ => by simp [commonLen]
  | _ + 1, [], _ => by simp [commonLen]
  | _ + 1, _ :: _, [] => by simp [commonLen]
  | limit + 1, x :: xs, y :: ys => by
    rw [commonLen]
    split
    · exact Nat.succ_le_succ (commonLen_le limit xs ys)
    · exact Nat.zero_le _

/-- A walk along a chain finds no match longer than its limit (R238). -/
theorem Mf.walk_le (m : Mf) (p limit : Nat) : ∀ (links : Nat) (c : Option Nat) (best dist : Nat),
    (m.walk p limit links c best dist).1 ≤ max best limit
  | 0, _, _, _ => Nat.le_max_left _ _
  | _ + 1, none, _, _ => Nat.le_max_left _ _
  | links + 1, some c, best, dist => by
    have hl := commonLen_le limit (m.input.drop c) (m.input.drop p)
    rw [Mf.walk]
    simp only
    split
    · generalize hbest : (if best < commonLen limit (m.input.drop c) (m.input.drop p) then
        commonLen limit (m.input.drop c) (m.input.drop p) else best) = best'
      have hbest' : best' ≤ max best limit := by rw [← hbest]; split <;> omega
      split
      · exact hbest'
      · exact Nat.le_trans (m.walk_le p limit links (m.link c) best' _) (by omega)
    · exact Nat.le_max_left _ _

/-- A match lies inside the input (R240). -/
theorem Mf.search_le (P : Config.Params) (m : Mf) (p : Nat) : (m.search P p).1 ≤ m.known - p := by
  unfold Mf.search
  split
  · exact Nat.zero_le _
  · simp only
    split
    · rename_i h _ hmin
      have hwalk := m.walk_le p (min maxMatch (m.known - p)) m.maxChain (m.head h) 2 0
      simp only [minMatch] at hmin
      omega
    · exact Nat.zero_le _

/-- What the tokenizer leaves alone at a position: everything but the chains and the tokens. -/
structure Mf.Indexed (m m' : Mf) : Prop where
  level    : m'.level = m.level
  opened   : m'.opened = m.opened
  last     : m'.last = m.last
  maxChain : m'.maxChain = m.maxChain
  lazyThr  : m'.lazyThr = m.lazyThr
  pos      : m'.pos = m.pos
  input    : m'.input = m.input
  heads    : m.mfh.wf = true ∧ m.mfh.below 32768 = true → m'.mfh.wf = true ∧ m'.mfh.below 32768 = true
  links    : m.mfp.wf = true ∧ m.mfp.below 32768 = true → m'.mfp.wf = true ∧ m'.mfp.below 32768 = true

theorem Mf.Indexed.trans {m m' m'' : Mf} (h : m.Indexed m') (h' : m'.Indexed m'') : m.Indexed m'' where
  level := h'.level.trans h.level
  opened := h'.opened.trans h.opened
  last := h'.last.trans h.last
  maxChain := h'.maxChain.trans h.maxChain
  lazyThr := h'.lazyThr.trans h.lazyThr
  pos := h'.pos.trans h.pos
  input := h'.input.trans h.input
  heads := h'.heads ∘ h.heads
  links := h'.links ∘ h.links

theorem Mf.indexed_emit (m : Mf) (t : Token) : m.Indexed (m.emit t) := ⟨rfl, rfl, rfl, rfl, rfl, rfl, rfl, id, id⟩

/-- The default hash is a head's address (R234). -/
theorem hashDefault_lt (b0 b1 b2 : Byte) : hashDefault b0 b1 b2 < 32768 :=
  Nat.lt_succ_of_le Nat.and_le_right

theorem Mf.hashAt_lt {m : Mf} {q h : Nat} (hq : m.hashAt params q = some h) : h < 32768 := by
  unfold Mf.hashAt at hq
  split at hq
  · injection hq with hq
    rw [← hq]
    exact hashDefault_lt ..
  · cases hq

theorem Mf.indexed_insert (m : Mf) (q : Nat) : m.Indexed (m.insert params q) := by
  unfold Mf.insert
  split
  · exact ⟨rfl, rfl, rfl, rfl, rfl, rfl, rfl, id, id⟩
  · rename_i h hq
    exact ⟨rfl, rfl, rfl, rfl, rfl, rfl, rfl,
      fun ⟨hwf, hbelow⟩ => ⟨Mem.wf_set _ _ hwf, Mem.below_set _ (Mf.hashAt_lt hq) hbelow⟩,
      fun ⟨hwf, hbelow⟩ => ⟨Mem.wf_set _ _ hwf, Mem.below_set _ (Nat.mod_lt _ (by decide)) hbelow⟩⟩

theorem Mf.indexed_insertRange : ∀ (k : Nat) (m : Mf) (q : Nat), m.Indexed (m.insertRange params q k)
  | 0, _, _ => ⟨rfl, rfl, rfl, rfl, rfl, rfl, rfl, id, id⟩
  | k + 1, m, q => (m.indexed_insert q).trans (Mf.indexed_insertRange k _ (q + 1))

theorem Mf.indexed_act (m : Mf) (p : Nat) (d : Decision) : m.Indexed (m.act params p d).1 := by
  cases d with
  | plain => exact m.indexed_emit _
  | fallback => exact (m.indexed_insert p).trans (Mf.indexed_emit _ _)
  | here l dist => exact ((m.indexed_insert p).trans (Mf.indexed_emit _ _)).trans (Mf.indexed_insertRange _ _ _)
  | lazily l dist =>
    exact ((((m.indexed_insert p).trans (Mf.indexed_emit _ _)).trans (Mf.indexed_insert _ _)).trans
      (Mf.indexed_emit _ _)).trans (Mf.indexed_insertRange _ _ _)

/-- A decision covers at least one byte, and none beyond the input (R237, R240). -/
theorem Mf.act_choose_covers {m : Mf} {p : Nat} (hp : p < m.known) :
    1 ≤ (m.act params p (m.choose params p)).2 ∧ p + (m.act params p (m.choose params p)).2 ≤ m.known := by
  have hplain : 1 ≤ 1 ∧ p + 1 ≤ m.known := ⟨Nat.le_refl _, hp⟩
  have hfirst := m.search_le params p
  have hsecond := (m.insert params p).search_le params (p + 1)
  have hknown : (m.insert params p).known = m.known := congrArg List.length (m.indexed_insert p).input
  rw [hknown] at hsecond
  unfold Mf.choose
  simp only
  split
  · exact hplain
  · split
    · exact hplain
    · rename_i hmin
      simp only [minMatch] at hmin
      split
      · split
        · simp only [Mf.act]; omega
        · simp only [Mf.act]; omega
      · simp only [Mf.act]; omega

/-- The chains, the window and the position of an open MatchFinder. -/
structure FinderInv (m : Mf) (w : Sw) : Prop where
  heads  : m.mfh.wf = true ∧ m.mfh.below 32768 = true
  links  : m.mfp.wf = true ∧ m.mfp.below 32768 = true
  window : w.Wf
  cap    : w.cap ≠ 0
  pos    : m.pos ≤ m.known

/-- What a run leaves alone (R236). -/
structure Mf.RanTo (m m' : Mf) : Prop where
  level    : m'.level = m.level
  opened   : m'.opened = m.opened
  last     : m'.last = m.last
  maxChain : m'.maxChain = m.maxChain
  lazyThr  : m'.lazyThr = m.lazyThr
  input    : m'.input = m.input

theorem Mf.RanTo.trans {m m' m'' : Mf} (h : m.RanTo m') (h' : m'.RanTo m'') : m.RanTo m'' where
  level := h'.level.trans h.level
  opened := h'.opened.trans h.opened
  last := h'.last.trans h.last
  maxChain := h'.maxChain.trans h.maxChain
  lazyThr := h'.lazyThr.trans h.lazyThr
  input := h'.input.trans h.input

/-- One step of the tokenizer (R237): it moves forward inside the input. -/
theorem mfStep_spec {m : Mf} {w : Sw} (h : FinderInv m w) (hp : m.pos < m.known) :
    FinderInv (mfStep params m w).1 (mfStep params m w).2 ∧ (mfStep params m w).2.cap = w.cap ∧
      m.RanTo (mfStep params m w).1 ∧ m.pos < (mfStep params m w).1.pos := by
  have hindexed := m.indexed_act m.pos (m.choose params m.pos)
  obtain ⟨hone, hin⟩ := Mf.act_choose_covers hp
  have hpos : (mfStep params m w).1.pos = m.pos + (m.act params m.pos (m.choose params m.pos)).2 :=
    congrArg (· + _) hindexed.pos
  have hknown : (mfStep params m w).1.known = m.known := congrArg List.length hindexed.input
  refine ⟨⟨hindexed.heads h.heads, hindexed.links h.links, Sw.inv_pushAll _ h.window h.cap, ?_, ?_⟩, pushAll_cap _ _,
    ⟨hindexed.level, hindexed.opened, hindexed.last, hindexed.maxChain, hindexed.lazyThr, hindexed.input⟩, ?_⟩
  · rw [mfStep, advance, pushAll_cap]; exact h.cap
  · rw [hpos, hknown]; exact hin
  · rw [hpos]; omega

theorem mfRunSteps_spec : ∀ (fuel : Nat) {m : Mf} {w : Sw}, FinderInv m w →
    FinderInv (mfRunSteps params fuel m w).1 (mfRunSteps params fuel m w).2 ∧
      (mfRunSteps params fuel m w).2.cap = w.cap ∧ m.RanTo (mfRunSteps params fuel m w).1 ∧
      (m.last = true → m.known - m.pos ≤ fuel →
        (mfRunSteps params fuel m w).1.pos = (mfRunSteps params fuel m w).1.known)
  | 0, m, w, h => ⟨h, rfl, ⟨rfl, rfl, rfl, rfl, rfl, rfl⟩, fun _ hf => by have := h.pos; simp only [mfRunSteps]; omega⟩
  | fuel + 1, m, w, h => by
    rw [mfRunSteps]
    split
    · rename_i hmay
      simp only [Mf.mayStep, Bool.and_eq_true, decide_eq_true_eq] at hmay
      obtain ⟨hinv, hcap, hran, hpos⟩ := mfStep_spec h hmay.1
      obtain ⟨hinv', hcap', hran', hend⟩ := mfRunSteps_spec fuel hinv
      refine ⟨hinv', hcap'.trans hcap, hran.trans hran', fun hlast hf => hend (hran.last.trans hlast) ?_⟩
      have hknown : (mfStep params m w).1.known = m.known := congrArg List.length hran.input
      omega
    · rename_i hmay
      refine ⟨h, rfl, ⟨rfl, rfl, rfl, rfl, rfl, rfl⟩, fun hlast _ => ?_⟩
      have hp := h.pos
      simp only [Mf.mayStep, hlast, Bool.true_or, Bool.and_true, decide_eq_true_eq] at hmay
      show m.pos = m.known
      omega

/-- The run of the MatchFinder (R236): once the end is marked it covers all input. -/
theorem mfRun_spec {m : Mf} {w : Sw} (h : FinderInv m w) :
    FinderInv (mfRun params m w).1 (mfRun params m w).2 ∧ (mfRun params m w).2.cap = w.cap ∧
      m.RanTo (mfRun params m w).1 ∧ (m.last = true → (mfRun params m w).1.pos = (mfRun params m w).1.known) := by
  obtain ⟨hinv, hcap, hran, hend⟩ := mfRunSteps_spec (m.known - m.pos) h
  exact ⟨hinv, hcap, hran, fun hlast => hend hlast (Nat.le_refl _)⟩

end Sys2Proof.Machine
end

section

namespace Sys2Proof.Machine

/-! ### Pieces of a micro-step -/

/-- What a piece of a micro-step can end in, one condition for each ending. -/
inductive Res.Post {α : Type} (done : α → State → Prop) (held raised : State → Prop) : Res α → Prop
  | done {a : α} {s : State} : done a s → Res.Post done held raised (.ok a s)
  | held {s : State} : held s → Res.Post done held raised (.hold s)
  | raised {f : Raised} {s : State} : raised s → Res.Post done held raised (.raise f s)

theorem Res.Post.andThen {α β : Type} {r : Res α} {k : α → State → Res β} {done : α → State → Prop}
    {done' : β → State → Prop} {held raised : State → Prop} (h : r.Post done held raised)
    (hk : ∀ a s, done a s → (k a s).Post done' held raised) : (r.andThen k).Post done' held raised := by
  cases h with
  | done h => exact hk _ _ h
  | held h => exact .held h
  | raised h => exact .raised h

theorem Res.Post.imp {α : Type} {r : Res α} {done done' : α → State → Prop} {held held' raised raised' : State → Prop}
    (h : r.Post done held raised) (hdone : ∀ a s, done a s → done' a s) (hheld : ∀ s, held s → held' s)
    (hraised : ∀ s, raised s → raised' s) : r.Post done' held' raised' := by
  cases h with
  | done h => exact .done (hdone _ _ h)
  | held h => exact .held (hheld _ h)
  | raised h => exact .raised (hraised _ h)

/-! ### Reading inside a session -/

/-- What the pieces that read the channel change: the channel and the source. -/
structure State.Reads (s t : State) : Prop where
  same    : t = { s with bc := t.bc, port := { s.port with src := t.port.src } }
  channel : s.bc.Reads t.bc

theorem State.Reads.trans {s t u : State} (h : s.Reads t) (h' : t.Reads u) : s.Reads u :=
  ⟨by rw [h'.same, h.same], h.channel.trans h'.channel⟩

theorem State.Reads.bk {s t : State} (h : s.Reads t) : t.bk = s.bk := by rw [h.same]
theorem State.Reads.hc {s t : State} (h : s.Reads t) : t.hc = s.hc := by rw [h.same]
theorem State.Reads.sw {s t : State} (h : s.Reads t) : t.sw = s.sw := by rw [h.same]
theorem State.Reads.mf {s t : State} (h : s.Reads t) : t.mf = s.mf := by rw [h.same]

theorem State.reads_setChannel {s : State} {r : Bc × List Byte} (h : s.bc.Reads r.1) : s.Reads (s.setChannel r) :=
  ⟨rfl, h⟩

theorem State.reads_skip {s : State} {n : Nat} (hn : n ≤ s.bc.nbits) : s.Reads (s.skip n) := ⟨rfl, Bc.reads_skip hn⟩

theorem State.starve_post {α : Type} (s : State) (missing : Nat) {done : α → State → Prop} {held raised : State → Prop}
    (hheld : held s) (hraised : raised s) : (s.starve missing : Res α).Post done held raised := by
  rcases s.starve_cases (α := α) missing with ⟨-, h⟩ | ⟨-, h⟩ <;> rw [h]
  · exact .raised hraised
  · exact .held hheld

theorem State.need_post (s : State) {n : Nat} (hn : n ≤ 32) :
    (s.need n).Post (fun _ t => s.Reads t ∧ n ≤ t.bc.nbits) s.Reads s.Reads := by
  have hread : s.Reads (s.setChannel (Bc.need n s.bc s.port.src)) :=
    State.reads_setChannel (Bc.reads_need hn s.bc s.port.src)
  unfold State.need
  simp only
  split
  · exact State.starve_post _ _ hread hread
  · rename_i henough; exact .done ⟨hread, Nat.not_lt.mp henough⟩

theorem State.peek_post (P : Config.Params) (s : State) {n : Nat} (hn : n ≤ 32) :
    (s.peek P n).Post (fun v t => s.Reads t ∧ v < 2 ^ n ∧ n ≤ t.bc.nbits) s.Reads s.Reads :=
  (s.need_post hn).andThen fun _ t ⟨ht, henough⟩ => .done ⟨ht, t.bc.peek_lt P n, henough⟩

theorem State.read_post (P : Config.Params) (s : State) {n : Nat} (hn : n ≤ 32) :
    (s.read P n).Post (fun v t => s.Reads t ∧ v < 2 ^ n) s.Reads s.Reads :=
  (s.peek_post P hn).andThen fun _ _ ⟨ht, hv, henough⟩ => .done ⟨ht.trans (State.reads_skip henough), hv⟩

theorem State.lookup_post (P : Config.Params) (s : State) {slot : Nat} (h : (s.table slot).maxlen ≤ 15) :
    (s.lookup P slot).Post (fun sl t => s.Reads t ∧ sl.2 ≤ 15 ∧ sl.2 ≤ t.bc.nbits) s.Reads s.Reads := by
  obtain ⟨hread, hfound⟩ := (s.table slot).lookupFrom_spec P (s.table slot).maxlen 1 s.bc s.port.src (by omega)
  have hread := State.reads_setChannel hread
  unfold State.lookup
  simp only
  split
  · rename_i symbol length hlook
    exact .done ⟨hread, hfound symbol length hlook⟩
  · exact State.starve_post _ _ hread hread
  · exact .raised hread

theorem State.decodeSym_post (P : Config.Params) (s : State) {slot : Nat} (h : (s.table slot).maxlen ≤ 15) :
    (s.decodeSym P slot).Post (fun _ t => s.Reads t) s.Reads s.Reads :=
  (s.lookup_post P h).andThen fun _ _ ⟨ht, _, henough⟩ => .done (ht.trans (State.reads_skip henough))

end Sys2Proof.Machine
end

section

namespace Sys2Proof.Machine

/-! ### What every step keeps -/

/-- The units' own invariants: the part of `State.Inv` that no session is needed for. -/
structure State.Units (s : State) : Prop where
  channel : s.bc.Wf
  window  : s.sw.Wf
  staging : s.hc.stg.wf = true ∧ s.hc.stg.below 320 = true
  heads   : s.mf.mfh.wf = true ∧ s.mf.mfh.below 32768 = true
  links   : s.mf.mfp.wf = true ∧ s.mf.mfp.below 32768 = true
  slots   : s.hc.Slots Table.Wf
  finder  : s.mf.opened = true → s.sw.cap ≠ 0 ∧ s.mf.pos ≤ s.mf.known ∧ s.mf.level ≤ 9

theorem State.Inv.units {s : State} (h : s.Inv) : s.Units :=
  ⟨h.channel, h.window, h.staging, h.heads, h.links, h.slots, h.finder⟩

/-- The BlockCodec's registers are within their widths (R27). -/
abbrev Bk.Fits (b : Bk) : Prop :=
  b.level < 2 ^ 4 ∧ b.storedRem < 2 ^ 16 ∧ b.copyRem < 2 ^ 9 ∧ b.dist < 2 ^ 17 ∧ b.length < 2 ^ 9 ∧ b.lenSym < 2 ^ 9 ∧
    b.distSym < 2 ^ 5 ∧ b.nlit < 2 ^ 9 ∧ b.ndist < 2 ^ 6 ∧ b.ncl < 2 ^ 5 ∧ b.idx < 2 ^ 9 ∧ b.ntok < 2 ^ 15

/-- The MatchFinder's registers are within their widths (R36). -/
abbrev Mf.Fits (m : Mf) : Prop := m.level < 2 ^ 4 ∧ m.maxChain < 2 ^ 13 ∧ m.lazyThr < 2 ^ 9

/-- What a part of a command does to the registers: slots and register widths are kept. -/
structure State.KeepsRegs (s t : State) : Prop where
  slots  : ∀ Q, TableRule Q → s.hc.Slots Q → t.hc.Slots Q
  codec  : s.bk.Fits → t.bk.Fits
  finder : s.mf.Fits → t.mf.Fits

theorem State.KeepsRegs.refl (s : State) : s.KeepsRegs s := ⟨fun _ _ => id, id, id⟩

theorem State.KeepsRegs.trans {s t u : State} (h : s.KeepsRegs t) (h' : t.KeepsRegs u) : s.KeepsRegs u :=
  ⟨fun Q hQ => h'.slots Q hQ ∘ h.slots Q hQ, h'.codec ∘ h.codec, h'.finder ∘ h.finder⟩

/-- Registers of other units do not matter. -/
theorem State.KeepsRegs.of_eq {s t : State} (hhc : t.hc = s.hc) (hbk : t.bk = s.bk) (hmf : t.mf = s.mf) : s.KeepsRegs t :=
  ⟨fun _ _ h => hhc ▸ h, fun h => hbk ▸ h, fun h => hmf ▸ h⟩

theorem State.keepsRegs_setBk (s : State) {b : Bk} (h : s.bk.Fits → b.Fits) : s.KeepsRegs { s with bk := b } :=
  ⟨fun _ _ => id, h, id⟩

theorem State.keepsRegs_discard (s : State) (k : Nat) : s.KeepsRegs (s.discard k) :=
  ⟨fun _ hQ => slots_discard hQ k, fun h => by simpa using h, fun h => by simpa using h⟩

/-- The units' invariants in a state whose slots keep theirs. -/
theorem State.Units.congr {s t : State} (h : s.Units) (hbc : t.bc = s.bc) (hsw : t.sw = s.sw)
    (hstg : t.hc.stg = s.hc.stg) (hmf : t.mf = s.mf) (hslots : t.hc.Slots Table.Wf) : t.Units where
  channel := hbc ▸ h.channel
  window := hsw ▸ h.window
  staging := hstg ▸ h.staging
  heads := hmf ▸ h.heads
  links := hmf ▸ h.links
  slots := hslots
  finder := by rw [hmf, hsw]; exact h.finder

theorem State.Units.setBk {s : State} (h : s.Units) (b : Bk) : ({ s with bk := b } : State).Units :=
  h.congr rfl rfl rfl rfl h.slots

theorem State.Units.discard {s : State} (h : s.Units) (k : Nat) : (s.discard k).Units :=
  h.congr (by simp) (by simp) (by simp) (by simp) (slots_discard tableRule_wf k h.slots)

theorem State.Units.setChannel {s t : State} (h : s.Units) (hbc : t.bc.Wf) (hsw : t.sw = s.sw) (hhc : t.hc = s.hc)
    (hmf : t.mf = s.mf) : t.Units where
  channel := hbc
  window := hsw ▸ h.window
  staging := hhc ▸ h.staging
  heads := hmf ▸ h.heads
  links := hmf ▸ h.links
  slots := hhc ▸ h.slots
  finder := by rw [hmf, hsw]; exact h.finder

/-- Staging inside `STG` (R35). -/
theorem State.Units.stage {s : State} (h : s.Units) {a : Nat} {l : List Nat} (hl : a + l.length ≤ 320) :
    (s.stage a l).Units where
  channel := h.channel
  window := h.window
  staging := ⟨State.wf_stage s a l h.staging.1, Mem.below_setList _ _ (by simpa using hl) h.staging.2⟩
  heads := h.heads
  links := h.links
  slots := h.slots
  finder := h.finder

theorem State.Units.out {s : State} (h : s.Units) (hcap : s.sw.cap ≠ 0) (b : Byte) : (s.out b).Units where
  channel := h.channel
  window := Sw.inv_push b h.window hcap
  staging := h.staging
  heads := h.heads
  links := h.links
  slots := h.slots
  finder := h.finder

/-! ### A decode session -/

/-- The two tables of the block in progress can be used (R302). -/
abbrev State.BlockTables (s : State) : Prop :=
  s.bk.kind = 1 ∨ (s.bk.kind = 2 ∧ s.hc.slot0.valid = true ∧ s.hc.slot1.valid = true)

/-- `State.DecoderRanges`, phase by phase. -/
def State.RangesAt (s : State) : Phase → Prop
  | .dynHdr => s.bk.kind = 2
  | .dynCl => s.bk.kind = 2 ∧ (s.bk.nlit ≤ 286 ∧ s.bk.ndist ≤ 30) ∧ s.bk.idx < s.bk.ncl ∧ s.bk.ncl ≤ 19
  | .dynLens => s.bk.kind = 2 ∧ (s.bk.nlit ≤ 286 ∧ s.bk.ndist ≤ 30) ∧ s.bk.idx ≤ s.bk.nlit + s.bk.ndist ∧
      s.hc.slot2.valid = true
  | .symbol => s.BlockTables
  | .lenExtra => s.BlockTables ∧ 257 ≤ s.bk.lenSym ∧ s.bk.lenSym ≤ 285
  | .distSym => s.BlockTables ∧ 3 ≤ s.bk.length ∧ s.bk.length ≤ 258
  | .distExtra => s.BlockTables ∧ (3 ≤ s.bk.length ∧ s.bk.length ≤ 258) ∧ s.bk.distSym < 30
  | .copy => s.BlockTables ∧ s.bk.copyRem ≤ 258 ∧ s.sw.reaches s.bk.dist = true
  | _ => True

theorem State.decoderRanges_iff (s : State) : s.DecoderRanges ↔ s.RangesAt s.bk.phase := by
  constructor
  · rintro ⟨hdynamic, hcounts, hclIndex, hlens, htables, hlenSym, hlength, hdistSym, hcopying⟩
    cases hp : s.bk.phase <;> simp_all [State.RangesAt, State.BlockTables, Phase.usesTables]
  · intro h
    cases hp : s.bk.phase <;> rw [hp] at h <;>
      constructor <;> simp_all [State.RangesAt, State.BlockTables, Phase.usesTables]

end Sys2Proof.Machine
end

section

namespace Sys2Proof.Machine

/-- The invariant of a decode session between two micro-steps; after the last block the phase is `DONE`. -/
structure State.InDecode (s : State) : Prop where
  units   : s.Units
  session : s.DecodeSession
  ranges  : s.RangesAt s.bk.phase
  phase   : s.bk.phase.decoding = true ∨ s.bk.phase = .done

/-- What a micro-step or a piece of one does from a state of a decode session. -/
abbrev State.DecodePost {α : Type} (s : State) (r : Res α) : Prop :=
  r.Post (fun _ t => t.InDecode ∧ s.KeepsRegs t) (fun t => t.InDecode ∧ s.KeepsRegs t)
    (fun t => t.Units ∧ s.KeepsRegs t)

theorem State.InDecode.reads {s t : State} (hs : s.InDecode) (h : s.Reads t) : t.InDecode := by
  obtain ⟨hunits, ⟨hdir, hmode, horder, hopened, hcap, hout⟩, hranges, hphase⟩ := hs
  have hch := h.channel
  refine ⟨hunits.setChannel (hch.wf hunits.channel hmode) h.sw h.hc h.mf, ?_, ?_, ?_⟩
  · rw [State.DecodeSession, h.bk, h.sw]
    exact ⟨hdir, hch.mode.trans hmode, hch.order.trans horder, hch.opened.trans hopened, hcap, hout⟩
  · rw [h.same]; exact hranges
  · rwa [h.bk]

theorem State.Reads.keepsRegs {s t : State} (h : s.Reads t) : s.KeepsRegs t := .of_eq h.hc h.bk h.mf

theorem State.DecodePost.since {α : Type} {s t : State} {r : Res α} (h : s.KeepsRegs t) (ht : t.DecodePost r) :
    s.DecodePost r :=
  ht.imp (fun _ _ ⟨hu, hkeep⟩ => ⟨hu, h.trans hkeep⟩) (fun _ ⟨hu, hkeep⟩ => ⟨hu, h.trans hkeep⟩)
    (fun _ ⟨hu, hkeep⟩ => ⟨hu, h.trans hkeep⟩)

/-- A micro-step that starts by reading goes on in a state of the session. -/
theorem State.DecodePost.after {α β : Type} {s : State} {r : Res α} {k : α → State → Res β} {done : α → State → Prop}
    (hs : s.InDecode) (h : r.Post (fun a t => s.Reads t ∧ done a t) s.Reads s.Reads)
    (hk : ∀ a t, s.Reads t → t.InDecode → done a t → t.DecodePost (k a t)) : s.DecodePost (r.andThen k) := by
  have hread : ∀ t, s.Reads t → t.InDecode ∧ s.KeepsRegs t := fun t ht => ⟨hs.reads ht, ht.keepsRegs⟩
  refine (h.imp (fun _ _ => id) (fun t ht => hread t ht)
    (fun t ht => ⟨(hread t ht).1.units, (hread t ht).2⟩)).andThen fun a t ⟨ht, hdone⟩ => ?_
  exact State.DecodePost.since ht.keepsRegs (hk a t ht (hs.reads ht) hdone)

/-- A write of the BlockCodec's registers inside a session. -/
theorem State.InDecode.setBk {s : State} (hs : s.InDecode) {b : Bk} (hdir : b.dir = s.bk.dir)
    (hout : b.outTotal = s.bk.outTotal) (hphase : b.phase.decoding = true ∨ b.phase = .done)
    (hranges : ({ s with bk := b } : State).RangesAt b.phase) : ({ s with bk := b } : State).InDecode := by
  obtain ⟨hunits, ⟨hdir', hmode, horder, hopened, hcap, hout'⟩, -, -⟩ := hs
  exact ⟨hunits.setBk b, ⟨hdir.trans hdir', hmode, horder, hopened, hcap, hout.trans hout'⟩, hranges, hphase⟩

/-- The end of a micro-step that writes the BlockCodec's registers only. -/
theorem State.DecodePost.setBk {s : State} (hs : s.InDecode) {b : Bk} (hdir : b.dir = s.bk.dir)
    (hout : b.outTotal = s.bk.outTotal) (hphase : b.phase.decoding = true ∨ b.phase = .done)
    (hranges : ({ s with bk := b } : State).RangesAt b.phase) (hfits : s.bk.Fits → b.Fits) :
    s.DecodePost (.ok () { s with bk := b }) :=
  .done ⟨hs.setBk hdir hout hphase hranges, s.keepsRegs_setBk hfits⟩

theorem Sw.reaches_iff (w : Sw) (d : Nat) : w.reaches d = true ↔ d ≠ 0 ∧ d ≤ min w.cursor w.cap := by
  simp [Sw.reaches, Sw.hist]

/-- A byte appended to the window puts no distance out of reach (R30). -/
theorem Sw.reaches_push {w : Sw} {d : Nat} (b : Byte) (h : w.reaches d = true) : (w.push b).reaches d = true := by
  rw [Sw.reaches_iff] at h ⊢
  simp only [Sw.push]
  omega

/-- A byte of output (R303). -/
theorem State.InDecode.out {s : State} (hs : s.InDecode) (b : Byte) : (s.out b).InDecode ∧ s.KeepsRegs (s.out b) := by
  obtain ⟨hunits, ⟨hdir, hmode, horder, hopened, hcap, hout⟩, hranges, hphase⟩ := hs
  refine ⟨⟨hunits.out (by rw [hcap]; decide) b, ⟨hdir, hmode, horder, hopened, hcap, congrArg (· + 1) hout⟩, ?_, hphase⟩,
    fun _ _ => id, id, id⟩
  have hcopy : s.BlockTables ∧ s.bk.copyRem ≤ 258 ∧ s.sw.reaches s.bk.dist = true →
      s.BlockTables ∧ s.bk.copyRem ≤ 258 ∧ (s.sw.push b).reaches s.bk.dist = true :=
    fun ⟨htables, hrem, hreach⟩ => ⟨htables, hrem, Sw.reaches_push b hreach⟩
  show (s.out b).RangesAt s.bk.phase
  cases hp : s.bk.phase <;> rw [hp] at hranges
  case copy => exact hcopy hranges
  all_goals exact hranges

theorem State.keepsRegs_stage (s : State) (a : Nat) (l : List Nat) : s.KeepsRegs (s.stage a l) :=
  ⟨fun _ _ => id, id, id⟩

/-- A write of staged cells. -/
theorem State.InDecode.stage {s : State} (hs : s.InDecode) {a : Nat} {l : List Nat} (hl : a + l.length ≤ 320) :
    (s.stage a l).InDecode ∧ s.KeepsRegs (s.stage a l) := by
  obtain ⟨hunits, hsession, hranges, hphase⟩ := hs
  refine ⟨⟨hunits.stage hl, hsession, ?_, hphase⟩, fun _ _ => id, id, id⟩
  show (s.stage a l).RangesAt s.bk.phase
  cases hp : s.bk.phase <;> rw [hp] at hranges <;> exact hranges

theorem clord_le (i : Nat) : clord i ≤ 18 := by
  have htable : ∀ x ∈ clordList, x ≤ 18 := by decide
  rw [clord, List.getD_eq_getElem?_getD]
  cases h : clordList[i]? with
  | none => exact Nat.zero_le _
  | some x => exact htable x (List.mem_of_getElem? h)

/-! ### The tables in use -/

theorem GoodLens.maxlen_le {limit : Nat} {len : List Nat} (h : GoodLens limit len) :
    (Table.ofLens limit len).maxlen ≤ limit := (maxLen_le_iff len limit).mpr h.le

/-- No table a session or a command can use has codes longer than 15 bits (R32, R34). -/
theorem State.table_maxlen_le {s : State} (hslots : s.hc.Slots Table.Wf) (k : Nat) (hvalid : (s.table k).valid = true) :
    (s.table k).maxlen ≤ 15 := by
  obtain ⟨h0, h1, h2⟩ := hslots
  have hwf : ∀ t : Table, t.Wf → t.valid = true → t.maxlen ≤ 15 := fun t ht hv => by
    obtain ⟨-, -, -, h15, hle, hmax, -⟩ := ht hv
    rw [hmax, maxLen_le_iff]
    exact fun l hl => Nat.le_trans (of_decide_eq_true (List.all_eq_true.mp hle l hl)) h15
  match k with
  | 0 => exact hwf _ h0 hvalid
  | 1 => exact hwf _ h1 hvalid
  | 2 => exact hwf _ h2 hvalid
  | 3 => exact fixedLit_good.maxlen_le
  | 4 => exact fixedDist_good.maxlen_le
  | _ + 5 => exact Nat.zero_le _

theorem State.litSlot_maxlen {s : State} (hslots : s.hc.Slots Table.Wf) (h : s.BlockTables) :
    (s.table s.litSlot).maxlen ≤ 15 := by
  refine State.table_maxlen_le hslots _ ?_
  rcases h with h | ⟨h, h0, -⟩ <;> simp only [State.litSlot, h]
  · rfl
  · exact h0

theorem State.distSlot_maxlen {s : State} (hslots : s.hc.Slots Table.Wf) (h : s.BlockTables) :
    (s.table s.distSlot).maxlen ≤ 15 := by
  refine State.table_maxlen_le hslots _ ?_
  rcases h with h | ⟨h, -, h1⟩ <;> simp only [State.distSlot, h]
  · rfl
  · exact h1

/-- A construction inside a session (R206): the slot holds a valid table, or is invalid and the fault is raised. -/
theorem State.buildLen_post {s : State} (hs : s.Units) (k : Nat) {n limit : Nat} (h1 : 1 ≤ limit) (h15 : limit ≤ 15)
    (hn : n ≤ 288) {held : State → Prop} :
    (s.buildLen k n limit).Post
      (fun _ t => t.Units ∧ s.KeepsRegs t ∧ ∃ tab : Table, tab.valid = true ∧ t = s.setTable k tab) held
      (fun t => t.Units ∧ s.KeepsRegs t) := by
  have hslots : ∀ Q, TableRule Q → s.hc.Slots Q → (s.putBuilt k (Machine.buildLen limit (s.stagedArray n))).hc.Slots Q :=
    fun Q hQ => slots_putBuilt_buildLen hQ k h1 h15 (by simpa [State.stagedArray] using hn)
  have hkeep : s.KeepsRegs (s.putBuilt k (Machine.buildLen limit (s.stagedArray n))) :=
    ⟨hslots, fun h => by simpa using h, fun h => by simpa using h⟩
  have hunits : (s.putBuilt k (Machine.buildLen limit (s.stagedArray n))).Units :=
    hs.congr (by simp) (by simp) (by cases Machine.buildLen limit (s.stagedArray n) <;> simp [State.putBuilt]) (by simp)
      (hslots _ tableRule_wf hs.slots)
  unfold State.buildLen
  cases hbuilt : Machine.buildLen limit (s.stagedArray n) with
  | table tab =>
    rw [hbuilt] at hunits hkeep
    exact .done ⟨hunits, hkeep, tab, by rw [(buildLen_good hbuilt).1]; rfl, rfl⟩
  | failed info =>
    rw [hbuilt] at hunits hkeep
    exact .raised ⟨hunits, hkeep⟩

/-! ### The micro-steps (R305 to R327) -/

variable {s : State} (P : Config.Params) (hs : s.InDecode)
include hs

theorem stepHeader_post : s.DecodePost (stepHeader P s) := by
  refine .after hs (s.read_post P (by decide)) fun h t ht hin hh => ?_
  split
  · have halign : t.Reads { t with bc := t.bc.alignRead } := ⟨rfl, Bc.reads_skip (Nat.mod_le _ _)⟩
    exact .since halign.keepsRegs (.setBk (hin.reads halign) rfl rfl (.inl rfl) trivial id)
  · split
    · rename_i hkind
      exact .setBk hin rfl rfl (.inl rfl) (.inl (by simp only [hkind]; rfl)) id
    · split
      · rename_i hkind
        exact .setBk hin rfl rfl (.inl rfl) (by simp only [State.RangesAt, hkind]; rfl) id
      · exact .raised ⟨hin.units.setBk _, t.keepsRegs_setBk id⟩

theorem stepStoredLen_post : s.DecodePost (stepStoredLen P s) := by
  refine .after hs (s.read_post P (by decide)) fun w t ht hin hw => ?_
  split
  · exact .raised ⟨hin.units, .refl t⟩
  · refine .setBk hin rfl rfl (.inl rfl) trivial fun hfits => ?_
    have hrem : w % 2 ^ 16 < 2 ^ 16 := Nat.mod_lt _ (by decide)
    simp only [Bk.Fits] at hfits ⊢
    omega

/-- The end of a block (R304). -/
theorem State.InDecode.endBlock : s.endBlock.InDecode ∧ s.KeepsRegs s.endBlock := by
  have hdiscards : ∀ t : State, t = (if s.bk.kind = 2 then (s.discard 0).discard 1 else s) →
      t.Units ∧ s.KeepsRegs t ∧ t.bk = s.bk ∧ t.bc = s.bc ∧ t.sw = s.sw := by
    rintro t rfl
    split
    · exact ⟨(hs.units.discard 0).discard 1, (s.keepsRegs_discard 0).trans (State.keepsRegs_discard _ 1), by simp,
        by simp, by simp⟩
    · exact ⟨hs.units, .refl s, rfl, rfl, rfl⟩
  obtain ⟨hunits, hkeeps, hbk, hbc, hsw⟩ := hdiscards _ rfl
  have hsession := hs.session
  unfold State.endBlock
  simp only
  generalize (if s.bk.kind = 2 then (s.discard 0).discard 1 else s) = t at *
  rw [State.DecodeSession, ← hbk, ← hbc, ← hsw] at hsession
  refine ⟨⟨hunits.setBk _, hsession, ?_, ?_⟩, hkeeps.trans (t.keepsRegs_setBk id)⟩
  · simp only [State.goto_bk]; split <;> trivial
  · simp only [State.goto_bk]; split
    · exact .inr rfl
    · exact .inl rfl

theorem stepStoredCopy_post (hp : s.bk.phase = .storedCopy) : s.DecodePost (stepStoredCopy P s) := by
  unfold stepStoredCopy
  split
  · exact .done hs.endBlock
  · refine .after hs (s.read_post P (by decide)) fun b t ht hin _ => ?_
    obtain ⟨hout, hkeep⟩ := hin.out (BitVec.ofNat 8 b)
    have hphase : t.bk.phase = .storedCopy := by rw [ht.bk, hp]
    refine .since hkeep (.setBk hout rfl rfl (.inl ?_) ?_ fun hfits => ?_)
    · show t.bk.phase.decoding = true; rw [hphase]; rfl
    · show State.RangesAt _ t.bk.phase; rw [hphase]; trivial
    · simp only [Bk.Fits] at hfits ⊢; omega

theorem stepDynHdr_post (hp : s.bk.phase = .dynHdr) : s.DecodePost (stepDynHdr P s) := by
  refine .after hs (s.read_post P (by decide)) fun w t ht hin _ => ?_
  have hkind : t.bk.kind = 2 := by
    have hranges := hs.ranges
    simp only [hp, State.RangesAt] at hranges
    rw [ht.bk, hranges]
  dsimp only
  split
  · refine .raised ⟨hin.units.setBk _, t.keepsRegs_setBk fun hfits => ?_⟩
    simp only [Bk.Fits] at hfits ⊢
    omega
  · rename_i hcounts
    obtain ⟨hstage, hkeep⟩ := hin.stage (show 0 + (List.replicate 19 0).length ≤ 320 by simp)
    refine .since hkeep (.setBk hstage rfl rfl (.inl rfl) ⟨hkind, ?_, ?_⟩ fun hfits => ?_)
    · simpa using hcounts
    · show 0 < w / 2 ^ 10 % 2 ^ 4 + 4 ∧ w / 2 ^ 10 % 2 ^ 4 + 4 ≤ 19
      omega
    · simp only [Bk.Fits, State.stage_bk] at hfits ⊢
      omega

theorem stepDynCl_post (hp : s.bk.phase = .dynCl) : s.DecodePost (stepDynCl P s) := by
  have hranges := hs.ranges
  simp only [hp, State.RangesAt] at hranges
  obtain ⟨hkind, hcounts, hidx⟩ := hranges
  refine .after hs (s.read_post P (by decide)) fun v t ht hin _ => ?_
  rw [← ht.bk] at hkind hcounts hidx
  have hphase : t.bk.phase = .dynCl := by rw [ht.bk, hp]
  have hclord : clord t.bk.idx + [v].length ≤ 320 := by
    have := clord_le t.bk.idx; simp only [List.length_singleton]; omega
  obtain ⟨hstage, hkeep⟩ := hin.stage hclord
  have hfits : t.bk.Fits → Bk.Fits { t.bk with idx := t.bk.idx + 1 } := fun hfits => by
    simp only [Bk.Fits] at hfits ⊢; omega
  refine .since hkeep ?_
  dsimp only
  split
  · have hunits := hstage.units.setBk { t.bk with idx := t.bk.idx + 1 }
    have hkeep' := State.keepsRegs_setBk (t.stage (clord t.bk.idx) [v]) hfits
    refine .since hkeep' ((State.buildLen_post hunits 2 (by decide) (by decide) (by decide)).andThen ?_)
    rintro - - ⟨hbuilt, hbuiltKeep, tab, hvalid, rfl⟩
    refine .done ⟨⟨hbuilt.setBk _, hstage.session, ⟨hkind, hcounts, Nat.zero_le _, hvalid⟩, .inl rfl⟩,
      hbuiltKeep.trans (State.keepsRegs_setBk _ fun hfits => ?_)⟩
    simp only [Bk.Fits] at hfits ⊢
    omega
  · rename_i hmore
    have hmore : ¬t.bk.idx + 1 = t.bk.ncl := hmore
    refine .setBk hstage rfl rfl (.inl ?_) ?_ hfits
    · show t.bk.phase.decoding = true; rw [hphase]; rfl
    · show State.RangesAt _ t.bk.phase
      rw [hphase]
      exact ⟨hkind, hcounts, by show t.bk.idx + 1 < t.bk.ncl; omega, hidx.2⟩

/-- The end of the code lengths of a dynamic block (R317, R318): both tables are built. -/
theorem stepDynDone_post (hp : s.bk.phase = .dynLens) : s.DecodePost (stepDynDone s) := by
  have hranges := hs.ranges
  simp only [hp, State.RangesAt] at hranges
  obtain ⟨hkind, ⟨hnlit, hndist⟩, -, -⟩ := hranges
  refine (State.buildLen_post hs.units 0 (by decide) (by decide) (by omega)).andThen ?_
  rintro - - ⟨hunits, hkeep, tab0, hvalid0, rfl⟩
  have hstaged : 0 + ((List.range s.bk.ndist).map fun i => (s.setTable 0 tab0).staged (s.bk.nlit + i)).length ≤ 320 := by
    simp only [List.length_map, List.length_range]; omega
  simp only [State.setTable_bk, State.stage_bk]
  generalize ((List.range s.bk.ndist).map fun i => (s.setTable 0 tab0).staged (s.bk.nlit + i)) = lens at hstaged ⊢
  refine State.DecodePost.since (hkeep.trans (State.keepsRegs_stage _ 0 lens)) ?_
  refine (State.buildLen_post (hunits.stage hstaged) 1 (by decide) (by decide) (by omega)).andThen ?_
  rintro - - ⟨hunits', hkeep', tab1, hvalid1, rfl⟩
  exact .done ⟨⟨(hunits'.discard 2).setBk _, hs.session, .inr ⟨hkind, hvalid0, hvalid1⟩, .inl rfl⟩,
    hkeep'.trans ((State.keepsRegs_discard _ 2).trans (State.keepsRegs_setBk _ id))⟩

omit hs in
theorem clExtra_le (sym : Nat) : clExtra sym ≤ 7 := by
  unfold clExtra
  split
  · decide
  · split
    · decide
    · split <;> decide

theorem stepDynLens_post (hp : s.bk.phase = .dynLens) : s.DecodePost (stepDynLens P s) := by
  have hranges := hs.ranges
  simp only [hp, State.RangesAt] at hranges
  obtain ⟨hkind, hcounts, hidx, hvalid⟩ := hranges
  unfold stepDynLens
  split
  · exact stepDynDone_post hs hp
  · refine .after hs (s.lookup_post P (State.table_maxlen_le hs.units.slots 2 hvalid)) fun sl t ht hin hsl => ?_
    have hwidth : sl.2 + clExtra sl.1 ≤ 32 := by have := clExtra_le sl.1; omega
    refine .after hin (t.peek_post P hwidth) fun w u hu hin' hw => ?_
    have hbk : u.bk = s.bk := hu.bk.trans ht.bk
    have hvalid' : u.hc.slot2.valid = true := by rw [hu.hc, ht.hc, hvalid]
    rw [← hbk] at hkind hcounts hidx
    split
    · exact .raised ⟨hin'.units, .refl u⟩
    · rename_i r v hrun
      split
      · exact .raised ⟨hin'.units, .refl u⟩
      · rename_i hfit
        have hskip := State.reads_skip hw.2
        obtain ⟨hstage, hkeep⟩ := (hin'.reads hskip).stage
          (show u.bk.idx + (List.replicate r v).length ≤ 320 by rw [List.length_replicate]; omega)
        refine .since (hskip.keepsRegs.trans hkeep) (.setBk hstage rfl rfl (.inl ?_) ?_ fun hfits => ?_)
        · show u.bk.phase.decoding = true; rw [hbk, hp]; rfl
        · show State.RangesAt _ u.bk.phase
          rw [hbk, hp]
          exact ⟨hkind, hcounts, Nat.not_lt.mp hfit, hvalid'⟩
        · have hfits : u.bk.Fits := hfits
          show Bk.Fits { u.bk with idx := u.bk.idx + r }
          simp only [Bk.Fits] at hfits ⊢
          omega

omit hs in
theorem State.Reads.blockTables {t : State} (ht : s.Reads t) (h : s.BlockTables) : t.BlockTables := by
  rwa [State.BlockTables, ht.bk, ht.hc]

theorem stepSymbol_post (hp : s.bk.phase = .symbol) : s.DecodePost (stepSymbol P s) := by
  have htables : s.BlockTables := by have := hs.ranges; rwa [hp] at this
  have hread := s.decodeSym_post P (State.litSlot_maxlen hs.units.slots htables)
  refine .after hs (hread.imp (fun a t h => ⟨h, True.intro⟩) (fun _ => id) fun _ => id) fun sym t ht hin _ => ?_
  split
  · exact .done (hin.out _)
  · split
    · exact .done hin.endBlock
    · split
      · have htables' := ht.blockTables htables
        refine .setBk hin rfl rfl (.inl rfl) ⟨htables', ?_, ?_⟩ fun hfits => ?_
        · show 257 ≤ sym; omega
        · assumption
        · simp only [Bk.Fits] at hfits ⊢; omega
      · exact .raised ⟨hin.units, .refl t⟩

omit hs in
/-- The extra bits of a length symbol keep the length within a match's bounds (R110). -/
theorem lbase_add_lt {i e : Nat} (hi : i ≤ 28) (he : e < 2 ^ lextra i) : 3 ≤ lbase i + e ∧ lbase i + e ≤ 258 := by
  have htable : ∀ i ≤ 28, 3 ≤ lbase i ∧ lbase i + 2 ^ lextra i ≤ 259 := by decide
  have := htable i hi
  omega

omit hs in
theorem lextra_le (i : Nat) : lextra i ≤ 5 := by
  have htable : ∀ x ∈ lextraList, x ≤ 5 := by decide
  rw [lextra, List.getD_eq_getElem?_getD]
  cases h : lextraList[i]? with
  | none => exact Nat.zero_le _
  | some x => exact htable x (List.mem_of_getElem? h)

omit hs in
theorem dextra_le (j : Nat) : dextra j ≤ 13 := by
  have htable : ∀ x ∈ dextraList, x ≤ 13 := by decide
  rw [dextra, List.getD_eq_getElem?_getD]
  cases h : dextraList[j]? with
  | none => exact Nat.zero_le _
  | some x => exact htable x (List.mem_of_getElem? h)

theorem stepLenExtra_post (hp : s.bk.phase = .lenExtra) : s.DecodePost (stepLenExtra P s) := by
  have hranges := hs.ranges
  simp only [hp, State.RangesAt] at hranges
  have htables := hranges.1
  have hsym := hranges.2
  unfold stepLenExtra
  have hi : s.bk.lenSym - 257 ≤ 28 := by omega
  generalize hindex : s.bk.lenSym - 257 = i at hi
  refine .after hs (s.read_post P (Nat.le_trans (lextra_le i) (by decide))) fun e t ht hin he => ?_
  have hlen := lbase_add_lt hi he
  rw [ht.bk, hindex]
  have htables' := ht.blockTables htables
  generalize lbase i + e = len at *
  rw [← ht.bk]
  refine .setBk hin rfl rfl (.inl rfl) ⟨htables', hlen⟩ fun hfits => ?_
  simp only [Bk.Fits] at hfits ⊢
  omega

theorem stepDistSym_post (hp : s.bk.phase = .distSym) : s.DecodePost (stepDistSym P s) := by
  have hranges := hs.ranges
  simp only [hp, State.RangesAt] at hranges
  obtain ⟨htables, hlen⟩ := hranges
  have hread := s.decodeSym_post P (State.distSlot_maxlen hs.units.slots htables)
  refine .after hs (hread.imp (fun a t h => ⟨h, True.intro⟩) (fun _ => id) fun _ => id) fun j t ht hin _ => ?_
  split
  · exact .raised ⟨hin.units, .refl t⟩
  · rw [← ht.bk] at hlen
    have htables' := ht.blockTables htables
    refine .setBk hin rfl rfl (.inl rfl) ⟨htables', hlen, ?_⟩ fun hfits => ?_
    · show j < 30; omega
    · simp only [Bk.Fits] at hfits ⊢; omega

theorem stepDistExtra_post (hp : s.bk.phase = .distExtra) : s.DecodePost (stepDistExtra P s) := by
  have hranges := hs.ranges
  simp only [hp, State.RangesAt] at hranges
  obtain ⟨htables, hlen, hsym⟩ := hranges
  have hextra := dextra_le s.bk.distSym
  have hbase : dbase s.bk.distSym ≠ 0 := by
    have htable : ∀ j < 30, dbase j ≠ 0 := by decide
    exact htable _ hsym
  refine .after hs (s.read_post P (by omega)) fun e t ht hin he => ?_
  rw [← ht.bk] at hlen hbase
  have htables' := ht.blockTables htables
  have hd : dbase t.bk.distSym + e ≠ 0 := by omega
  generalize dbase t.bk.distSym + e = d at *
  dsimp only
  split
  · exact .raised ⟨hin.units, .refl t⟩
  · rename_i hreach
    obtain ⟨-, -, -, -, hcap, -⟩ := hin.session
    refine .setBk hin rfl rfl (.inl rfl) ⟨htables', hlen.2, ?_⟩ fun hfits => ?_
    · rw [Sw.reaches_iff]
      simp only [hcap]
      omega
    · have : windowCap = 32768 := rfl
      simp only [Bk.Fits] at hfits ⊢
      omega

theorem stepCopy_post (hp : s.bk.phase = .copy) : s.DecodePost (stepCopy s) := by
  have hranges := hs.ranges
  simp only [hp, State.RangesAt] at hranges
  obtain ⟨htables, hrem, hreach⟩ := hranges
  unfold stepCopy
  split
  · exact .setBk hs rfl rfl (.inl rfl) htables id
  · rw [Sw.get, if_pos hreach]
    obtain ⟨hout, hkeep⟩ := hs.out (s.sw.back s.bk.dist)
    refine .since hkeep (.setBk hout rfl rfl (.inl ?_) ?_ fun hfits => ?_)
    · show s.bk.phase.decoding = true; rw [hp]; rfl
    · show State.RangesAt _ s.bk.phase
      rw [hp]
      exact ⟨htables, Nat.le_trans (Nat.sub_le _ _) hrem, Sw.reaches_push _ hreach⟩
    · simp only [Bk.Fits] at hfits ⊢; omega

/-! ### The engine (R300) -/

theorem microStep_post {r : Res Unit} (h : microStep P s = some r) : s.DecodePost r := by
  unfold microStep at h
  cases hp : s.bk.phase <;> simp only [hp, Option.some.injEq, reduceCtorEq] at h <;> subst h
  case header => exact stepHeader_post P hs
  case storedLen => exact stepStoredLen_post P hs
  case storedCopy => exact stepStoredCopy_post P hs hp
  case dynHdr => exact stepDynHdr_post P hs hp
  case dynCl => exact stepDynCl_post P hs hp
  case dynLens => exact stepDynLens_post P hs hp
  case symbol => exact stepSymbol_post P hs hp
  case lenExtra => exact stepLenExtra_post P hs hp
  case distSym => exact stepDistSym_post P hs hp
  case distExtra => exact stepDistExtra_post P hs hp
  case copy => exact stepCopy_post hs hp

/-- What an engine run ends in. -/
inductive EngineEnd.Post (ended raised : State → Prop) : EngineEnd → Prop
  | status {st : FeedStatus} {s : State} : ended s → EngineEnd.Post ended raised (.status st s)
  | raised {f : Raised} {s : State} : raised s → EngineEnd.Post ended raised (.raised f s)
  | stopped {why : Fault} : EngineEnd.Post ended raised (.stopped why)

omit hs in
theorem decLoop_post (outCap : Option Nat) (out0 : Nat) : ∀ (fuel : Nat) {s : State}, s.InDecode →
    (decLoop P outCap out0 fuel s).Post (fun t => t.InDecode ∧ s.KeepsRegs t) fun t => t.Units ∧ s.KeepsRegs t
  | 0, _, _ => .stopped
  | fuel + 1, s, hs => by
    rw [decLoop]
    split
    · exact .status ⟨hs, .refl s⟩
    · split
      · exact .status ⟨hs, .refl s⟩
      · split
        · exact .stopped
        · rename_i a t hstep
          cases microStep_post P hs hstep with
          | done ht =>
            have hloop := decLoop_post outCap out0 fuel ht.1
            generalize decLoop P outCap out0 fuel t = e at hloop ⊢
            cases hloop with
            | status hu => exact .status ⟨hu.1, ht.2.trans hu.2⟩
            | raised hu => exact .raised ⟨hu.1, ht.2.trans hu.2⟩
            | stopped => exact .stopped
        · rename_i t hstep
          cases microStep_post P hs hstep with
          | held ht => exact .status ht
        · rename_i f t hstep
          cases microStep_post P hs hstep with
          | raised ht => exact .raised ht

theorem decEngine_post (outCap : Option Nat) :
    (s.decEngine P outCap).Post (fun t => t.InDecode ∧ s.KeepsRegs t) fun t => t.Units ∧ s.KeepsRegs t :=
  decLoop_post P outCap s.bk.outTotal s.engineFuel hs

end Sys2Proof.Machine
end

section

namespace Sys2Proof.Machine

/-! ### The plan of a dynamic block (R265 to R270) -/

theorem foldl_length {α : Type} {g : List Nat → α → List Nat} (h : ∀ f x, (g f x).length = f.length) :
    ∀ (l : List α) (f : List Nat), (l.foldl g f).length = f.length
  | [], _ => rfl
  | x :: l, f => (foldl_length h l (g f x)).trans (h f x)

theorem bump_length (f : List Nat) (i : Nat) : (bump f i).length = f.length := List.length_set

theorem fillZero_length : ∀ f : List Nat, (fillZero f).length = f.length
  | [] => rfl
  | x :: rest => by
    rw [fillZero]
    split
    · rfl
    · exact congrArg (· + 1) (fillZero_length rest)

theorem guard2_length (f : List Nat) : (guard2 f).length = f.length := by
  unfold guard2
  split
  · rw [fillZero_length, fillZero_length]
  · rw [fillZero_length]
  · rfl

theorem litFreq_length (tokens : List Token) : (litFreq tokens).length = 286 := by
  rw [litFreq, bump_length, foldl_length (fun f t => by cases t <;> exact bump_length f _), List.length_replicate]

theorem distFreq_length (tokens : List Token) : (distFreq tokens).length = 30 := by
  rw [distFreq, foldl_length, List.length_replicate]
  intro f t
  cases t with
  | lit b => rfl
  | copy length distance => exact bump_length f _

theorem clFreq_length (r : List (Nat × Nat)) : (clFreq r).length = 19 := by
  rw [clFreq, foldl_length fun f p => bump_length f _, List.length_replicate]

/-- A table built from frequencies, of any limit the encoder uses. -/
theorem buildFreq_rule {Q : Table → Prop} (hQ : TableRule Q) {P : Config.Params} {limit : Nat} {freq : List Nat}
    {t : Table} (h1 : 1 ≤ limit) (h15 : limit ≤ 15) (hn : freq.length ≤ 288) (h : buildFreq P limit freq = .table t) : Q t := by
  obtain ⟨len, rfl, hlen, hgood⟩ := buildFreq_good h1 h
  exact hQ.built _ _ h1 h15 (hlen ▸ hn) hgood

/-- The three tables of a plan come from constructions. -/
theorem dynPlan_tables {Q : Table → Prop} (hQ : TableRule Q) {P : Config.Params} {tokens : List Token} {plan : DynPlan}
    (h : dynPlan P tokens = .ok plan) : Q plan.ll ∧ Q plan.d ∧ Q plan.cl := by
  simp only [dynPlan] at h
  split at h
  · cases h
  rename_i ll hll
  split at h
  · cases h
  rename_i d hd
  simp only [dynPlanOf] at h
  split at h
  · cases h
  rename_i cl hcl
  cases h
  exact ⟨buildFreq_rule hQ (by decide) (by decide) (by rw [guard2_length, litFreq_length]; decide) hll,
    buildFreq_rule hQ (by decide) (by decide) (by rw [guard2_length, distFreq_length]; decide) hd,
    buildFreq_rule hQ (by decide) (by decide) (by rw [guard2_length, clFreq_length]; decide) hcl⟩

/-- What `dyn_plan` writes (R265): staged cells inside `STG` and three built tables. -/
theorem State.Units.putPlan {s : State} (hs : s.Units) {P : Config.Params} {tokens : List Token} {plan : DynPlan}
    (h : dynPlan P tokens = .ok plan) : (s.putPlan tokens plan).Units ∧ s.KeepsRegs (s.putPlan tokens plan) := by
  have hslots : ∀ Q, TableRule Q → s.hc.Slots Q → (s.putPlan tokens plan).hc.Slots Q := fun Q hQ _ =>
    dynPlan_tables hQ h
  have hstaged := ((hs.stage (a := 0) (l := guard2 (litFreq tokens))
    (by rw [guard2_length, litFreq_length]; decide)).stage (a := 0) (l := guard2 (distFreq tokens))
    (by rw [guard2_length, distFreq_length]; decide)).stage (a := 0) (l := guard2 (clFreq plan.runs))
    (by rw [guard2_length, clFreq_length]; decide)
  exact ⟨hstaged.congr rfl rfl rfl rfl (hslots _ tableRule_wf hs.slots), hslots, id, id⟩

/-! ### An encode session -/

/-- The invariant of an encode session while blocks are written. -/
structure State.Encoding (s : State) : Prop where
  units   : s.Units
  session : s.EncodeSession
  phase   : s.bk.phase = .encRun
  flushed : s.bc.flushed = false

/-- What writing blocks leaves alone. -/
structure State.Emits (s t : State) : Prop where
  keeps : s.KeepsRegs t
  last  : t.bk.last = s.bk.last
  pos   : t.mf.pos = s.mf.pos
  input : t.mf.input = s.mf.input

theorem State.Emits.trans {s t u : State} (h : s.Emits t) (h' : t.Emits u) : s.Emits u :=
  ⟨h.keeps.trans h'.keeps, h'.last.trans h.last, h'.pos.trans h.pos, h'.input.trans h.input⟩

theorem State.Emits.refl (s : State) : s.Emits s := ⟨.refl s, rfl, rfl, rfl⟩

/-- What a part of the encoder ends in. -/
inductive EncPost (done raised : State → Prop) : Except (Raised × State) State → Prop
  | done {s : State} : done s → EncPost done raised (.ok s)
  | raised {f : Raised} {s : State} : raised s → EncPost done raised (.error (f, s))

/-- Writing on the channel of an encode session (R260). -/
theorem State.Encoding.runEnc {s : State} (hs : s.Encoding) (P : Config.Params) (ops : List WOp) :
    (s.runEnc P ops).Encoding := by
  obtain ⟨hunits, ⟨hdir, hmode, horder, hopened, hfinder, hcap⟩, hphase, hflushed⟩ := hs
  have hw := Bc.written_runOps P ops s.bc
  exact ⟨hunits.setChannel (hw.wf hunits.channel hmode) rfl rfl rfl,
    ⟨hdir, hw.mode.trans hmode, hw.order.trans horder, hw.opened.trans hopened, hfinder, hcap⟩, hphase,
    hw.flushed.trans hflushed⟩

theorem State.Encoding.discard {s : State} (hs : s.Encoding) (k : Nat) : (s.discard k).Encoding := by
  obtain ⟨hunits, hsession, hphase, hflushed⟩ := hs
  refine ⟨hunits.discard k, ?_, by simpa using hphase, by simpa using hflushed⟩
  simpa only [State.EncodeSession, State.discard_bk, State.discard_bc, State.discard_mf, State.discard_sw] using hsession

theorem State.emits_discard (s : State) (k : Nat) : s.Emits (s.discard k) :=
  ⟨s.keepsRegs_discard k, by simp, by simp, by simp⟩

theorem State.emits_runEnc (s : State) (P : Config.Params) (ops : List WOp) : s.Emits (s.runEnc P ops) :=
  ⟨⟨fun _ _ => id, id, id⟩, rfl, rfl, rfl⟩

/-- The tokens of a block written are removed (R251, R262). -/
theorem State.Encoding.takeTokens {s : State} (hs : s.Encoding) (m n : Nat) :
    ({ s with mf := s.mf.take m, bk := { s.bk with blkStart := n } } : State).Encoding ∧
      s.Emits { s with mf := s.mf.take m, bk := { s.bk with blkStart := n } } := by
  obtain ⟨⟨hchannel, hwindow, hstaging, hheads, hlinks, hslots, hfinder⟩, hsession, hphase, hflushed⟩ := hs
  exact ⟨⟨⟨hchannel, hwindow, hstaging, hheads, hlinks, hslots, hfinder⟩, hsession, hphase, hflushed⟩,
    ⟨fun _ _ => id, id, id⟩, rfl, rfl, rfl⟩

/-- One block (R262). -/
theorem State.Encoding.emitBlock {s : State} (hs : s.Encoding) (P : Config.Params) (m : Nat) (final : Bool) :
    EncPost (fun t => t.Encoding ∧ s.Emits t) (fun t => t.Units ∧ s.KeepsRegs t) (s.emitBlock P m final) := by
  obtain ⟨hunits, hsession, hphase, hflushed⟩ := hs
  unfold State.emitBlock
  dsimp only
  split
  · exact .raised ⟨hunits.setBk _, s.keepsRegs_setBk id⟩
  · rename_i plan hplan
    obtain ⟨hplanned, hkeep⟩ := (hunits.setBk { s.bk with final := final }).putPlan hplan
    generalize chooseKind P s.bk.level plan _ s.bc.total _ = kind
    generalize blockOps kind _ plan _ final = ops
    generalize hu : State.putPlan { s with bk := { s.bk with final := final } } _ plan = u at *
    have hstart : ({ u with bk := { u.bk with kind := kindCode kind } } : State).Encoding := by
      subst hu
      exact ⟨hplanned.setBk _, hsession, hphase, hflushed⟩
    have hemits : s.Emits { u with bk := { u.bk with kind := kindCode kind } } := by
      subst hu
      exact ⟨((s.keepsRegs_setBk (b := { s.bk with final := final }) id).trans hkeep).trans (State.keepsRegs_setBk _ id),
        rfl, rfl, rfl⟩
    have hwritten := hstart.runEnc P ops
    have hdiscarded := ((hwritten.discard 0).discard 1).discard 2
    obtain ⟨htaken, hemits'⟩ := hdiscarded.takeTokens m
      ((((({ u with bk := { u.bk with kind := kindCode kind } }.runEnc P ops).discard 0).discard 1).discard 2).bk.blkStart +
        (((s.mf.tok.take m).map Token.ofWord).map Token.covers).sum)
    exact .done ⟨htaken, hemits.trans ((State.emits_runEnc _ P ops).trans ((State.emits_discard _ 0).trans
      ((State.emits_discard _ 1).trans ((State.emits_discard _ 2).trans hemits'))))⟩

/-- The loop of R260 that writes the blocks that are not final. -/
theorem State.Encoding.emitFull (P : Config.Params) : ∀ (fuel : Nat) {s : State}, s.Encoding →
    EncPost (fun t => t.Encoding ∧ s.Emits t) (fun t => t.Units ∧ s.KeepsRegs t) (s.emitFull P fuel)
  | 0, s, hs => .done ⟨hs, .refl s⟩
  | fuel + 1, s, hs => by
    rw [State.emitFull]
    split
    · have hblock := hs.emitBlock P P.blockMaxTokens false
      generalize s.emitBlock P P.blockMaxTokens false = e at hblock ⊢
      cases hblock with
      | raised h => exact .raised h
      | done h =>
        rename_i t
        have hrest := State.Encoding.emitFull P fuel h.1
        dsimp only
        generalize t.emitFull P fuel = e at hrest ⊢
        cases hrest with
        | raised h' => exact .raised ⟨h'.1, h.2.keeps.trans h'.2⟩
        | done h' => exact .done ⟨h'.1, h.2.trans h'.2⟩
    · exact .done ⟨hs, .refl s⟩

/-- The state an encode session is in between commands: blocks are still to come, the end not marked, or the stream is
finished and `outq` holds the rest of it. -/
structure State.InEncode (s : State) : Prop where
  units   : s.Units
  session : s.EncodeSession
  phase   : (s.bk.phase = .encRun ∧ s.bk.last = false ∧ s.bc.flushed = false) ∨ s.bk.phase = .encFinish

/-- The final block and the flush (R260): not yet, or the stream is finished. -/
theorem State.Encoding.emitFinal {s : State} (hs : s.Encoding) (P : Config.Params)
    (hend : s.bk.last = true → s.mf.pos = s.mf.known) :
    EncPost (fun t => t.InEncode ∧ s.KeepsRegs t) (fun t => t.Units ∧ s.KeepsRegs t) (s.emitFinal P) := by
  unfold State.emitFinal
  split
  · have hblock := hs.emitBlock P s.mf.ntok true
    generalize s.emitBlock P s.mf.ntok true = e at hblock ⊢
    cases hblock with
    | raised h => exact .raised h
    | done h =>
      rename_i t
      have hflush := h.1.runEnc P [.align]
      obtain ⟨hunits, hsession, -, -⟩ := hflush
      refine .done ⟨⟨?_, hsession, .inr rfl⟩, h.2.keeps.trans ⟨fun _ _ => id, id, id⟩⟩
      exact (hunits.setChannel (t := { t.runEnc P [.align] with bc := { (t.runEnc P [.align]).bc with flushed := true } })
        hunits.channel rfl rfl rfl).setBk _
  · rename_i hnot
    have hlast : s.bk.last = false := by
      cases hl : s.bk.last with
      | false => rfl
      | true => simp [hl, hend hl] at hnot
    exact .done ⟨⟨hs.units, hs.session, .inl ⟨hs.phase, hlast, hs.flushed⟩⟩, .refl s⟩

/-- The MatchFinder and its window in an encode session. -/
theorem State.Units.finderInv {s : State} (hs : s.Units) (hopened : s.mf.opened = true) : FinderInv s.mf s.sw :=
  have ⟨hcap, hpos, _⟩ := hs.finder hopened
  ⟨hs.heads, hs.links, hs.window, hcap, hpos⟩

/-- A run of an open MatchFinder (R236). -/
theorem State.Units.mfRun {s : State} (hs : s.Units) (hopened : s.mf.opened = true) :
    (s.mfRun params).Units ∧ s.KeepsRegs (s.mfRun params) := by
  obtain ⟨hinv, -, hran, -⟩ := mfRun_spec (hs.finderInv hopened)
  have hlevel := (hs.finder hopened).2.2
  refine ⟨⟨hs.channel, hinv.window, hs.staging, hinv.heads, hinv.links, hs.slots,
    fun _ => ⟨hinv.cap, hinv.pos, hran.level ▸ hlevel⟩⟩, fun _ _ => id, id, fun hfits => ?_⟩
  rw [Mf.Fits, State.mfRun_mf, hran.level, hran.maxChain, hran.lazyThr]
  exact hfits

/-- The encoder engine (R260). -/
theorem State.Encoding.encEngine {s : State} (hs : s.Encoding) (hlast : s.bk.last = true → s.mf.last = true) :
    EncPost (fun t => t.InEncode ∧ s.KeepsRegs t) (fun t => t.Units ∧ s.KeepsRegs t) (s.encEngine params) := by
  obtain ⟨hunits, ⟨hdir, hmode, horder, hopened, hfinder, hcap⟩, hphase, hflushed⟩ := hs
  obtain ⟨-, hcap', hran, hend⟩ := mfRun_spec (hunits.finderInv hfinder)
  obtain ⟨hrun, hkeep⟩ := hunits.mfRun hfinder
  have hstart : (s.mfRun params).Encoding :=
    ⟨hrun, ⟨hdir, hmode, horder, hopened, hran.opened.trans hfinder, hcap'.trans hcap⟩, hphase, hflushed⟩
  unfold State.encEngine
  have hfull := State.Encoding.emitFull params (s.mfRun params).mf.ntok hstart
  dsimp only
  generalize (s.mfRun params).emitFull params (s.mfRun params).mf.ntok = e at hfull ⊢
  cases hfull with
  | raised h => exact .raised ⟨h.1, hkeep.trans h.2⟩
  | done h =>
    rename_i t
    obtain ⟨ht, hemits⟩ := h
    have hcovered : t.bk.last = true → t.mf.pos = t.mf.known := fun hl => by
      rw [Mf.known, hemits.pos, hemits.input]
      exact hend (hlast (hemits.last.symm.trans hl))
    have hfinal := ht.emitFinal params hcovered
    dsimp only
    generalize t.emitFinal params = e at hfinal ⊢
    cases hfinal with
    | raised h' => exact .raised ⟨h'.1, (hkeep.trans hemits.keeps).trans h'.2⟩
    | done h' =>
      rename_i u
      obtain ⟨⟨hu, husession, huphase⟩, hukeep⟩ := h'
      refine .done ⟨⟨hu.setBk _, husession, huphase⟩,
        ((hkeep.trans hemits.keeps).trans hukeep).trans (u.keepsRegs_setBk fun hfits => ?_)⟩
      have hmax : params.blockMaxTokens = 16384 := rfl
      simp only [Bk.Fits, hmax] at hfits ⊢
      omega

end Sys2Proof.Machine
end

section

namespace Sys2Proof.Machine

/-! ### How a command ends -/

/-- A command ends in a state with a property, or it stops by name: for the counters (U9), or in one of the faults that
mark states no run reaches. -/
inductive Ends (P : State → Prop) : Host.Outcome State Fault Refusal → Prop
  | next {t : State} : P t → Ends P (.next t)
  | fault {why : Fault} : Ends P (.fault why)
  | overflow : Ends P (.refused .counterOverflow)

theorem Ends.of_finish {P : State → Prop} {s : State} (h : s.countersFit = true → P s) : Ends P s.finish := by
  unfold State.finish
  split
  · exact .next (h ‹_›)
  · exact .overflow

theorem Ends.imp {P Q : State → Prop} {o : Host.Outcome State Fault Refusal} (h : Ends P o) (hPQ : ∀ t, P t → Q t) :
    Ends Q o := by
  cases h with
  | next h => exact .next (hPQ _ h)
  | fault => exact .fault
  | overflow => exact .overflow

theorem Ends.of_next {P : State → Prop} {o : Host.Outcome State Fault Refusal} {t : State} (h : Ends P o)
    (ho : o = .next t) : P t := by
  subst ho
  cases h with
  | next h => exact h

theorem Ends.refusal {P : State → Prop} {o : Host.Outcome State Fault Refusal} {r : Refusal} (h : Ends P o)
    (ho : o = .refused r) : r = .counterOverflow := by
  subst ho
  cases h with
  | overflow => rfl

/-! ### What a command keeps -/

/-- What a step keeps of the machine: its invariant, the slots' properties, the registers' widths. -/
structure State.Keeps (s t : State) : Prop where
  inv    : t.Inv
  regs   : s.KeepsRegs t
  counts : s.countersFit = true → t.countersFit = true

/-- A phase is open in exactly one direction (R24, R340). -/
theorem Phase.isOpen_eq (p : Phase) : p.isOpen = (p.decoding || p.encoding) := by cases p <;> rfl

theorem Phase.closed_cases {p : Phase} (h : p.isOpen = false) : p = .idle ∨ p = .done ∨ p = .fault := by
  cases p <;> simp_all [Phase.isOpen]

theorem Phase.encoding_cases {p : Phase} (h : p.encoding = true) : p = .encRun ∨ p = .encFinish := by
  cases p <;> simp_all [Phase.encoding]

theorem Phase.not_encoding {p : Phase} (h : p.decoding = true) : p.encoding = false := by
  cases p <;> simp_all [Phase.decoding, Phase.encoding]

/-- Without a session the units' invariants are the machine's. -/
theorem State.Units.inv {s : State} (h : s.Units) (hclosed : s.sessionOpen = false) : s.Inv := by
  obtain ⟨hchannel, hwindow, hstaging, hheads, hlinks, hslots, hfinder⟩ := h
  have hphases := Phase.closed_cases hclosed
  rw [State.sessionOpen, Phase.isOpen_eq, Bool.or_eq_false_iff] at hclosed
  obtain ⟨hdecoding, hencoding⟩ := hclosed
  refine ⟨hchannel, hwindow, hstaging, hheads, hlinks, hslots, hfinder, ?_, ?_, ?_, s.decoderRanges_iff.mpr ?_⟩
  · rw [hdecoding]; exact fun h => by cases h
  · rw [hencoding]; exact fun h => by cases h
  · intro hp; rw [hp] at hencoding; cases hencoding
  · rcases hphases with hp | hp | hp <;> rw [hp] <;> trivial

theorem State.InDecode.inv {s : State} (h : s.InDecode) : s.Inv := by
  obtain ⟨⟨hchannel, hwindow, hstaging, hheads, hlinks, hslots, hfinder⟩, hsession, hranges, hphase⟩ := h
  have hencoding : s.bk.phase.encoding = false := by
    rcases hphase with hp | hp
    · exact Phase.not_encoding hp
    · rw [hp]; rfl
  refine ⟨hchannel, hwindow, hstaging, hheads, hlinks, hslots, hfinder, fun _ => hsession, ?_, ?_,
    s.decoderRanges_iff.mpr hranges⟩
  · rw [hencoding]; exact fun h => by cases h
  · intro hp; rw [hp] at hencoding; cases hencoding

theorem State.InEncode.inv {s : State} (h : s.InEncode) : s.Inv := by
  obtain ⟨⟨hchannel, hwindow, hstaging, hheads, hlinks, hslots, hfinder⟩, hsession, hphase⟩ := h
  refine ⟨hchannel, hwindow, hstaging, hheads, hlinks, hslots, hfinder, ?_, fun _ => hsession, ?_,
    s.decoderRanges_iff.mpr ?_⟩ <;> rcases hphase with ⟨hp, hrunning⟩ | hp <;> rw [hp]
  · exact fun h => by cases h
  · exact fun h => by cases h
  · exact fun _ => hrunning
  · exact fun h => by cases h
  · trivial
  · trivial

theorem State.Inv.inDecode {s : State} (h : s.Inv) (hphase : s.bk.phase.decoding = true) : s.InDecode :=
  ⟨h.units, h.decodes hphase, s.decoderRanges_iff.mp h.decoder, .inl hphase⟩

theorem State.Inv.inEncode {s : State} (h : s.Inv) (hphase : s.bk.phase.encoding = true) : s.InEncode := by
  refine ⟨h.units, h.encodes hphase, ?_⟩
  rcases Phase.encoding_cases hphase with hp | hp
  · exact .inl ⟨hp, h.running hp⟩
  · exact .inr hp

/-- A command that changes none of the units: an answer, a refusal, an error response. -/
theorem State.Keeps.answered {s t : State} (hs : s.Inv) (hbc : t.bc = s.bc) (hsw : t.sw = s.sw) (hhc : t.hc = s.hc)
    (hmf : t.mf = s.mf) (hbk : t.bk = s.bk) : s.Keeps t := by
  obtain ⟨err, bc, sw, hc, mf, bk, outq, port, gen⟩ := t
  simp only at hbc hsw hhc hmf hbk
  subst hbc hsw hhc hmf hbk
  obtain ⟨hchannel, hwindow, hstaging, hheads, hlinks, hslots, hfinder, hdecodes, hencodes, hrunning, hdecoder⟩ := hs
  obtain ⟨hdynamic, hcounts, hclIndex, hlens, htables, hlenSym, hlength, hdistSym, hcopying⟩ := hdecoder
  exact ⟨⟨hchannel, hwindow, hstaging, hheads, hlinks, hslots, hfinder, hdecodes, hencodes, hrunning,
    ⟨hdynamic, hcounts, hclIndex, hlens, htables, hlenSym, hlength, hdistSym, hcopying⟩⟩, .of_eq rfl rfl rfl, id⟩

/-- A command that ends without a session. -/
theorem State.Keeps.of_closed {s t : State} (hclosed : t.sessionOpen = false) (ht : t.Units) (hregs : s.KeepsRegs t)
    (hcounts : s.countersFit = true → t.countersFit = true) : s.Keeps t :=
  ⟨ht.inv hclosed, hregs, hcounts⟩

/-! ### The commands of units 1 to 4 -/

section
variable {s : State} (hs : s.Inv)
include hs

/-- A command that changes the channel only. -/
theorem ends_channel {t : State} (hclosed : s.sessionOpen = false) (hbc : t.bc.Wf) (hsw : t.sw = s.sw)
    (hhc : t.hc = s.hc) (hmf : t.mf = s.mf) (hbk : t.bk = s.bk) : Ends s.Keeps t.finish :=
  .of_finish fun hfit => .of_closed (by rwa [State.sessionOpen, hbk]) (hs.units.setChannel hbc hsw hhc hmf)
    (.of_eq hhc hbk hmf) fun _ => hfit

theorem execBcInit_keeps (mode : Mode) (order : Order) : Ends s.Keeps (execBcInit mode order s) := by
  unfold execBcInit
  split
  · exact .next (.answered hs rfl rfl rfl rfl rfl)
  · rename_i hopen
    refine .next (.of_closed (eq_false_of_ne_true hopen) (hs.units.setChannel (Bc.wf_init mode order) rfl rfl rfl)
      (.of_eq rfl rfl rfl) fun hfit => ?_)
    obtain ⟨-, -, hrest⟩ := (State.countersFit_iff s).mp hfit
    exact (State.countersFit_iff _).mpr ⟨Nat.two_pow_pos 64, Nat.two_pow_pos 64, hrest⟩

omit hs in
theorem bcClosed_eq_false (h : ¬s.bcClosed = true) : s.sessionOpen = false := by
  simp only [State.bcClosed, Bool.or_eq_true, not_or, Bool.not_eq_true] at h
  exact h.1

omit hs in
theorem bcRefuses_eq_false {mode : Mode} {count : Nat} (h : ¬s.bcRefuses mode count = true) :
    s.sessionOpen = false ∧ s.bc.mode = mode ∧ count ≤ 32 := by
  simp only [State.bcRefuses, Bool.or_eq_true, not_or, bne_iff_ne, ne_eq, not_not, decide_eq_true_eq, Nat.not_lt] at h
  obtain ⟨⟨hclosed, hmode⟩, hcount⟩ := h
  exact ⟨bcClosed_eq_false hclosed, hmode, hcount⟩

theorem execBcWriteBits_keeps (value : Word) (count : BitVec 6) : Ends s.Keeps (execBcWriteBits value count s) := by
  unfold execBcWriteBits
  split
  · exact .next (.answered hs rfl rfl rfl rfl rfl)
  · rename_i hrefuses
    rw [Bool.or_eq_true, not_or] at hrefuses
    obtain ⟨hclosed, hmode, -⟩ := bcRefuses_eq_false hrefuses.1
    exact ends_channel hs hclosed (Bc.wf_write _ _ _ hs.channel hmode) rfl rfl rfl rfl

theorem execBcReadBits_keeps (count : BitVec 6) : Ends s.Keeps (execBcReadBits count s) := by
  unfold execBcReadBits
  split
  · exact .next (.answered hs rfl rfl rfl rfl rfl)
  · rename_i hrefuses
    obtain ⟨hclosed, hmode, hcount⟩ := bcRefuses_eq_false hrefuses
    have hneed := Bc.reads_need hcount s.bc s.port.src
    dsimp only
    split
    · exact ends_channel hs hclosed (hneed.wf hs.channel hmode) rfl rfl rfl rfl
    · rename_i henough
      exact ends_channel hs hclosed ((hneed.trans (Bc.reads_skip (Nat.not_lt.mp henough))).wf hs.channel hmode)
        rfl rfl rfl rfl

theorem execBcPeekBits_keeps (count : BitVec 6) : Ends s.Keeps (execBcPeekBits count s) := by
  unfold execBcPeekBits
  split
  · exact .next (.answered hs rfl rfl rfl rfl rfl)
  · rename_i hrefuses
    obtain ⟨hclosed, hmode, hcount⟩ := bcRefuses_eq_false hrefuses
    have hneed := (Bc.reads_need hcount s.bc s.port.src).wf hs.channel hmode
    dsimp only
    split
    · exact ends_channel hs hclosed hneed rfl rfl rfl rfl
    · exact ends_channel hs hclosed hneed rfl rfl rfl rfl

theorem execBcAlign_keeps : Ends s.Keeps (execBcAlign s) := by
  unfold execBcAlign
  split
  · exact .next (.answered hs rfl rfl rfl rfl rfl)
  · rename_i hopen
    have hclosed := bcClosed_eq_false hopen
    split
    · rename_i hmode
      split
      · exact .next (.answered hs rfl rfl rfl rfl rfl)
      · exact ends_channel hs hclosed (Bc.wf_alignWrite _ hs.channel hmode) rfl rfl rfl rfl
    · rename_i hmode
      exact ends_channel hs hclosed (Bc.wf_alignRead hs.channel hmode) rfl rfl rfl rfl

theorem execBcFlush_keeps : Ends s.Keeps (execBcFlush s) := by
  unfold execBcFlush
  split
  · exact .next (.answered hs rfl rfl rfl rfl rfl)
  · rename_i hrefuses
    obtain ⟨hclosed, hmode, -⟩ := bcRefuses_eq_false hrefuses
    exact ends_channel hs hclosed (Bc.wf_alignWrite _ hs.channel hmode) rfl rfl rfl rfl

theorem execBcClose_keeps : Ends s.Keeps (execBcClose s) := by
  unfold execBcClose
  split
  · exact .next (.answered hs rfl rfl rfl rfl rfl)
  · rename_i hopen
    have hclosed := bcClosed_eq_false hopen
    dsimp only
    split
    · rename_i hflush
      simp only [Bool.and_eq_true, decide_eq_true_eq] at hflush
      exact ends_channel hs hclosed (Bc.wf_alignWrite _ hs.channel hflush.1) rfl rfl rfl rfl
    · exact ends_channel hs hclosed hs.channel rfl rfl rfl rfl

/-- A command that changes the window only. -/
theorem keeps_window {t : State} (hclosed : s.sessionOpen = false) (hbc : t.bc = s.bc) (hsw : t.sw.Wf)
    (hcap : t.sw.cap ≠ 0) (hhc : t.hc = s.hc) (hmf : t.mf = s.mf) (hbk : t.bk = s.bk)
    (hcounts : s.countersFit = true → t.countersFit = true) :
    s.Keeps t := by
  refine .of_closed (by rwa [State.sessionOpen, hbk]) ?_ (.of_eq hhc hbk hmf) hcounts
  refine ⟨hbc ▸ hs.channel, hsw, hhc ▸ hs.staging, hmf ▸ hs.heads, hmf ▸ hs.links, hhc ▸ hs.slots, fun hopened => ?_⟩
  rw [hmf] at hopened ⊢
  exact ⟨hcap, (hs.finder hopened).2⟩

omit hs in
theorem swRefuses_eq_false (h : ¬s.swRefuses = true) : s.sessionOpen = false ∧ s.sw.cap ≠ 0 := by
  simpa [State.swRefuses] using h

theorem execSwInit_keeps (capacity : BitVec 17) : Ends s.Keeps (execSwInit capacity s) := by
  unfold execSwInit
  split
  · exact .next (.answered hs rfl rfl rfl rfl rfl)
  · split
    · exact .next (.answered hs rfl rfl rfl rfl rfl)
    · rename_i hopen hrange
      simp only [Bool.or_eq_true, decide_eq_true_eq, not_or, Nat.not_lt] at hrange
      refine .next (keeps_window hs (eq_false_of_ne_true hopen) rfl (Sw.inv_init hs.window hrange.1 hrange.2) ?_ rfl
        rfl rfl fun hfit => ?_)
      · show capacity.toNat ≠ 0; omega
      · obtain ⟨htotal, hnbytes, -, hrest⟩ := (State.countersFit_iff s).mp hfit
        exact (State.countersFit_iff _).mpr ⟨htotal, hnbytes, Nat.two_pow_pos 64, hrest⟩

theorem execSwPush_keeps (byte : Byte) : Ends s.Keeps (execSwPush byte s) := by
  unfold execSwPush
  split
  · exact .next (.answered hs rfl rfl rfl rfl rfl)
  · rename_i hrefuses
    obtain ⟨hclosed, hcap⟩ := swRefuses_eq_false hrefuses
    exact .of_finish fun hfit =>
      keeps_window hs hclosed rfl (Sw.inv_push byte hs.window hcap) hcap rfl rfl rfl fun _ => hfit

theorem execSwGet_keeps (offset : Word) : Ends s.Keeps (execSwGet offset s) := by
  unfold execSwGet
  split
  · exact .next (.answered hs rfl rfl rfl rfl rfl)
  · split <;> exact .next (.answered hs rfl rfl rfl rfl rfl)

theorem execSwCopy_keeps (distance length : Word) : Ends s.Keeps (execSwCopy distance length s) := by
  unfold execSwCopy
  split
  · exact .next (.answered hs rfl rfl rfl rfl rfl)
  · split
    · rename_i hrefuses _
      obtain ⟨hclosed, hcap⟩ := swRefuses_eq_false hrefuses
      refine .of_finish fun hfit =>
        keeps_window hs hclosed rfl (Sw.inv_copyLoop _ _ hs.window hcap) ?_ rfl rfl rfl fun _ => hfit
      rwa [State.ok_sw, Sw.copyLoop_cap]
    · exact .next (.answered hs rfl rfl rfl rfl rfl)

/-- A command that changes a slot only. -/
theorem keeps_slot {t : State} (hclosed : s.sessionOpen = false) (hbc : t.bc = s.bc) (hsw : t.sw = s.sw)
    (hstg : t.hc.stg = s.hc.stg) (hmf : t.mf = s.mf) (hbk : t.bk = s.bk)
    (hslots : ∀ Q, TableRule Q → s.hc.Slots Q → t.hc.Slots Q) : s.Keeps t := by
  refine .of_closed (by rwa [State.sessionOpen, hbk])
    (hs.units.congr hbc hsw hstg hmf (hslots _ tableRule_wf hs.slots))
    ⟨hslots, fun h => hbk ▸ h, fun h => hmf ▸ h⟩ fun hfit => ?_
  rw [State.countersFit_iff] at hfit ⊢
  rwa [hbc, hsw, hmf, hbk]

theorem execHcStage_keeps (index : BitVec 9) (value : Word) : Ends s.Keeps (execHcStage index value s) := by
  unfold execHcStage
  split
  · exact .next (.answered hs rfl rfl rfl rfl rfl)
  · rename_i hrefuses
    simp only [Bool.or_eq_true, decide_eq_true_eq, not_or, Bool.not_eq_true, Nat.not_lt] at hrefuses
    obtain ⟨hclosed, hindex⟩ := hrefuses
    refine .next (.of_closed hclosed ?_ ⟨fun _ _ => id, id, id⟩ id)
    exact ⟨hs.channel, hs.window,
      ⟨Mem.wf_set _ _ hs.staging.1, Mem.below_set _ (Nat.lt_succ_of_le hindex) hs.staging.2⟩, hs.heads, hs.links, hs.slots,
      hs.finder⟩

omit hs in
theorem buildRefuses_eq_false {slot n limit : Nat} (h : ¬s.buildRefuses slot n limit = true) :
    s.sessionOpen = false ∧ n ≤ 288 ∧ 1 ≤ limit := by
  simp only [State.buildRefuses, State.hcRefuses, Bool.or_eq_true, decide_eq_true_eq, not_or, Bool.not_eq_true, Nat.not_lt,
    beq_iff_eq] at h
  obtain ⟨⟨⟨⟨⟨hclosed, -⟩, -⟩, -⟩, hn⟩, hlimit⟩ := h
  exact ⟨hclosed, hn, Nat.pos_of_ne_zero hlimit⟩

/-- The answer of a construction, whichever it is. -/
theorem answerBuilt_keeps (slot : Nat) (b : Built) (hclosed : s.sessionOpen = false)
    (hslots : ∀ Q, TableRule Q → s.hc.Slots Q → (s.putBuilt slot b).hc.Slots Q) : Ends s.Keeps (s.answerBuilt slot b) := by
  cases b with
  | table t =>
    exact .next (keeps_slot hs hclosed (by simp) (by simp) (by simp [State.putBuilt]) (by simp) (by simp) hslots)
  | failed info =>
    exact .next (keeps_slot hs hclosed (by simp) (by simp) (by simp [State.putBuilt]) (by simp) (by simp) hslots)

theorem execHcBuildFreq_keeps (slot : BitVec 4) (n : BitVec 9) (limit : BitVec 4) :
    Ends s.Keeps (execHcBuildFreq slot n limit s) := by
  unfold execHcBuildFreq
  split
  · exact .next (.answered hs rfl rfl rfl rfl rfl)
  · rename_i hrefuses
    obtain ⟨hclosed, hn, hlimit⟩ := buildRefuses_eq_false hrefuses
    exact answerBuilt_keeps hs _ _ hclosed fun Q hQ => slots_putBuilt_buildFreq hQ _ hlimit
      (Nat.le_of_lt_succ limit.isLt) (by simpa [State.stagedArray] using hn)

theorem execHcBuildLen_keeps (slot : BitVec 4) (n : BitVec 9) (limit : BitVec 4) :
    Ends s.Keeps (execHcBuildLen slot n limit s) := by
  unfold execHcBuildLen
  split
  · exact .next (.answered hs rfl rfl rfl rfl rfl)
  · rename_i hrefuses
    obtain ⟨hclosed, hn, hlimit⟩ := buildRefuses_eq_false hrefuses
    exact answerBuilt_keeps hs _ _ hclosed fun Q hQ => slots_putBuilt_buildLen hQ _ hlimit
      (Nat.le_of_lt_succ limit.isLt) (by simpa [State.stagedArray] using hn)

theorem execHcEncode_keeps (slot : BitVec 4) (symbol : BitVec 9) : Ends s.Keeps (execHcEncode slot symbol s) := by
  unfold execHcEncode
  split
  · exact .next (.answered hs rfl rfl rfl rfl rfl)
  · split <;> exact .next (.answered hs rfl rfl rfl rfl rfl)

theorem execHcDecode_keeps (slot : BitVec 4) : Ends s.Keeps (execHcDecode slot s) := by
  unfold execHcDecode
  split
  · exact .next (.answered hs rfl rfl rfl rfl rfl)
  · rename_i hrefuses
    simp only [State.hcRefuses, Bool.or_eq_true, decide_eq_true_eq, not_or, Bool.not_eq_true, Bool.not_eq_true',
      bne_iff_ne, ne_eq, not_not, Bool.not_eq_false] at hrefuses
    obtain ⟨⟨⟨⟨hclosed, -⟩, hvalid⟩, -⟩, hmode⟩ := hrefuses
    have hmax := State.table_maxlen_le hs.slots slot.toNat hvalid
    obtain ⟨hread, hfound⟩ := (s.table slot.toNat).lookupFrom_spec params (s.table slot.toNat).maxlen 1 s.bc s.port.src
      (by omega)
    have hwf := hread.wf hs.channel hmode
    dsimp only
    split
    · rename_i symbol length hlook
      exact ends_channel hs hclosed
        ((hread.trans (Bc.reads_skip (hfound symbol length hlook).2)).wf hs.channel hmode) rfl rfl rfl rfl
    · exact ends_channel hs hclosed hwf rfl rfl rfl rfl
    · exact ends_channel hs hclosed hwf rfl rfl rfl rfl

theorem execHcDiscard_keeps (slot : BitVec 4) : Ends s.Keeps (execHcDiscard slot s) := by
  unfold execHcDiscard
  split
  · exact .next (.answered hs rfl rfl rfl rfl rfl)
  · rename_i hrefuses
    simp only [State.hcRefuses, Bool.or_eq_true, not_or, Bool.not_eq_true] at hrefuses
    exact .next (keeps_slot hs hrefuses.1.1 (by simp) (by simp) (by simp) (by simp) (by simp)
      fun Q hQ => slots_discard hQ _)

end

end Sys2Proof.Machine
end

section

namespace Sys2Proof.Machine

/-! ### The end of a session -/

theorem State.keepsRegs_forget (s : State) : s.KeepsRegs s.forget := ⟨fun _ hQ _ => slots_forget hQ s, id, id⟩

theorem State.Units.forget {s : State} (h : s.Units) : s.forget.Units where
  channel := h.channel
  window := h.window
  staging := ⟨Mem.wf_unspecified _, rfl⟩
  heads := ⟨Mem.wf_unspecified _, rfl⟩
  links := ⟨Mem.wf_unspecified _, rfl⟩
  slots := slots_forget tableRule_wf s
  finder hopened := by simpa [State.forget, Mf.known] using h.finder hopened

theorem State.keepsRegs_goto (s : State) (p : Phase) : s.KeepsRegs (s.goto p) := s.keepsRegs_setBk id

theorem State.keepsRegs_discardAll (s : State) : s.KeepsRegs s.discardAll :=
  ((s.keepsRegs_discard 0).trans (State.keepsRegs_discard _ 1)).trans (State.keepsRegs_discard _ 2)

theorem State.Units.discardAll {s : State} (h : s.Units) : s.discardAll.Units := ((h.discard 0).discard 1).discard 2

/-- A session closed by a fault (R341, R386). -/
theorem State.Units.closeFaulted {s : State} (h : s.Units) : s.closeFaulted.Inv ∧ s.KeepsRegs s.closeFaulted :=
  ⟨(h.setBk _).forget.inv rfl, (s.keepsRegs_goto _).trans (State.keepsRegs_forget _)⟩

/-- A session closed by its last response (R340, R341). -/
theorem State.Units.closeFinished {s : State} (h : s.Units) : s.closeFinished.Inv ∧ s.KeepsRegs s.closeFinished :=
  ⟨(h.setBk _).forget.discardAll.inv (by simp [State.sessionOpen, Phase.isOpen]),
    ((s.keepsRegs_goto _).trans (State.keepsRegs_forget _)).trans (State.keepsRegs_discardAll _)⟩

theorem State.Units.abandon {s : State} (h : s.Units) : s.abandon.Units ∧ s.KeepsRegs s.abandon := by
  unfold State.abandon
  split
  · exact ⟨h.forget, s.keepsRegs_forget⟩
  · exact ⟨h, .refl s⟩

/-! ### The start of a session -/

theorem Bk.reset_fits (dir : Direction) (phase : Phase) {level : Nat} (h : level ≤ 9) :
    Bk.Fits { Bk.reset with dir := dir, level := level, phase := phase } := by
  have : level < 2 ^ 4 := by omega
  simpa [Bk.Fits, Bk.reset] using this

theorem windowCap_ne_zero : windowCap ≠ 0 := by decide

/-- The effort of a level fits its registers (R233). -/
theorem Mf.init_fits (m : Mf) {level : Nat} (h : level ≤ 9) : (m.init params level).Fits := by
  have heffort : level < 2 ^ 4 ∧ (params.effort level).maxChain < 2 ^ 13 ∧ (params.effort level).lazyThr < 2 ^ 9 := by
    interval_cases level <;> decide
  exact heffort

/-- `mf_init` (R231): an open MatchFinder without input, its window empty. -/
theorem State.Units.mfInit {s : State} (hs : s.Units) {level : Nat} (h : level ≤ 9) : (s.mfInit params level).Units where
  channel := hs.channel
  window := Sw.inv_init hs.window (by decide) (by decide)
  staging := hs.staging
  heads := ⟨rfl, rfl⟩
  links := hs.links
  slots := hs.slots
  finder _ := ⟨windowCap_ne_zero, Nat.le_refl 0, h⟩

/-- `BK_INIT` to decode (R343). -/
theorem State.Units.startDecode {s : State} (h : s.Units) (level : Nat) :
    (s.startSession params .decode level).InDecode ∧ s.KeepsRegs (s.startSession params .decode level) := by
  obtain ⟨habandoned, hkeep⟩ := h.abandon
  obtain ⟨-, hwindow, hstaging, hheads, hlinks, hslots, hfinder⟩ := habandoned.discardAll
  refine ⟨⟨⟨Bc.wf_init _ _, Sw.inv_init hwindow (by decide) (by decide), hstaging, hheads, hlinks, hslots,
    fun hopened => ⟨windowCap_ne_zero, (hfinder hopened).2⟩⟩, ⟨rfl, rfl, rfl, rfl, rfl, rfl⟩, trivial, .inl rfl⟩, ?_⟩
  have hkeep := hkeep.trans s.abandon.keepsRegs_discardAll
  exact ⟨hkeep.slots, fun _ => Bk.reset_fits .decode .header (Nat.zero_le 9), hkeep.finder⟩

/-- `BK_INIT` to encode (R343). -/
theorem State.Units.startEncode {s : State} (h : s.Units) {level : Nat} (hlevel : level ≤ 9) :
    (s.startSession params .encode level).Encoding ∧ s.KeepsRegs (s.startSession params .encode level) := by
  obtain ⟨habandoned, hkeep⟩ := h.abandon
  obtain ⟨-, hwindow, hstaging, hheads, hlinks, hslots, hfinder⟩ := habandoned.discardAll
  refine ⟨⟨⟨Bc.wf_init _ _, Sw.inv_init hwindow (by decide) (by decide), hstaging, ⟨rfl, rfl⟩, hlinks, hslots,
    fun _ => ⟨windowCap_ne_zero, Nat.le_refl 0, hlevel⟩⟩, ⟨rfl, rfl, rfl, rfl, rfl, rfl⟩, rfl, rfl⟩, ?_⟩
  have hkeep := hkeep.trans s.abandon.keepsRegs_discardAll
  exact ⟨hkeep.slots, fun _ => Bk.reset_fits .encode .encRun hlevel, fun _ => Mf.init_fits _ hlevel⟩

/-- Closing or abandoning a session keeps the number of input bytes and of tokens. -/
theorem State.abandon_counts (s : State) : s.abandon.mf.pos = s.mf.pos ∧ s.abandon.mf.input.length = s.mf.input.length ∧
    s.abandon.mf.tok.length = s.mf.tok.length := by
  unfold State.abandon
  split
  · exact ⟨rfl, List.length_mapIdx, List.length_mapIdx⟩
  · exact ⟨rfl, rfl, rfl⟩

/-- A new session counts from zero. -/
theorem State.startSession_countersFit (s : State) (dir : Direction) (level : Nat) (h : s.countersFit = true) :
    (s.startSession params dir level).countersFit = true := by
  obtain ⟨-, -, -, hpos, hinput, -, -, -, htok⟩ := (State.countersFit_iff s).mp h
  obtain ⟨hpos', hinput', htok'⟩ := s.abandon_counts
  have hzero := Nat.two_pow_pos 64
  rw [State.countersFit_iff]
  cases dir with
  | decode =>
    simp only [State.startSession, State.goto_mf, State.discardAll_mf, hpos', hinput', htok']
    exact ⟨hzero, hzero, hzero, hpos, hinput, hzero, hzero, hzero, htok⟩
  | encode => exact ⟨hzero, hzero, hzero, hzero, hzero, hzero, hzero, hzero, Nat.two_pow_pos 32⟩

end Sys2Proof.Machine
end

section

namespace Sys2Proof.Machine

/-! ### The commands of units 4 and 0 -/

theorem State.Keeps.trans {s t u : State} (h : s.Keeps t) (h' : t.Keeps u) : s.Keeps u :=
  ⟨h'.inv, h.regs.trans h'.regs, h'.counts ∘ h.counts⟩

/-- A command whose last act is an answer from a state with the invariant. -/
theorem ends_answered {s t u : State} (ht : t.Inv ∧ s.KeepsRegs t) (hbc : u.bc = t.bc) (hsw : u.sw = t.sw)
    (hhc : u.hc = t.hc) (hmf : u.mf = t.mf) (hbk : u.bk = t.bk) : Ends s.Keeps u.finish := by
  obtain ⟨hinv, hregs, -⟩ := State.Keeps.answered ht.1 hbc hsw hhc hmf hbk
  exact .of_finish fun hfit => ⟨hinv, ht.2.trans hregs, fun _ => hfit⟩

/-- The CORE after a reset, however it comes (R353, R410). -/
theorem State.units_coreReset (s : State) : s.coreReset.Units where
  channel := show Bc.reset.Wf by decide
  window := Sw.inv_reset s.gen
  staging := ⟨Mem.wf_unspecified _, rfl⟩
  heads := ⟨Mem.wf_unspecified _, rfl⟩
  links := ⟨Mem.wf_unspecified _, rfl⟩
  slots := slots_blank tableRule_wf s.gen
  finder hopened := by cases hopened

theorem State.keeps_coreReset (s : State) : s.Keeps s.coreReset := by
  have hzero := Nat.two_pow_pos 64
  exact .of_closed rfl s.units_coreReset
    ⟨fun _ hQ _ => slots_blank hQ s.gen, fun _ => Bk.reset_fits .decode .idle (Nat.zero_le 9),
      fun _ => ⟨Nat.two_pow_pos 4, Nat.two_pow_pos 13, Nat.two_pow_pos 9⟩⟩
    fun _ => (State.countersFit_iff _).mpr
      ⟨hzero, hzero, hzero, hzero, hzero, hzero, hzero, hzero, Nat.two_pow_pos 32⟩

theorem execCoreReset_keeps (s : State) : Ends s.Keeps (execCoreReset s) :=
  have hkeeps := s.keeps_coreReset
  .next (hkeeps.trans (.answered hkeeps.inv rfl rfl rfl rfl rfl))

section
variable {s : State} (hs : s.Inv)
include hs

theorem execRegRead_keeps (number : BitVec 8) : Ends s.Keeps (execRegRead number s) := by
  unfold execRegRead
  split <;> exact .next (.answered hs rfl rfl rfl rfl rfl)

theorem execMfInit_keeps (level : BitVec 4) : Ends s.Keeps (execMfInit level s) := by
  unfold execMfInit
  split
  · exact .next (.answered hs rfl rfl rfl rfl rfl)
  · split
    · exact .next (.answered hs rfl rfl rfl rfl rfl)
    · rename_i hopen hlevel
      rw [Nat.not_lt] at hlevel
      refine .next (.of_closed (eq_false_of_ne_true hopen) ?_ ⟨fun _ _ => id, id, fun _ => Mf.init_fits _ hlevel⟩
        fun hfit => ?_)
      · exact (hs.units.mfInit hlevel).congr rfl rfl rfl rfl hs.slots
      · obtain ⟨htotal, hnbytes, -, -, -, hin, hout, hstart, -⟩ := (State.countersFit_iff s).mp hfit
        have hzero := Nat.two_pow_pos 64
        exact (State.countersFit_iff _).mpr
          ⟨htotal, hnbytes, hzero, hzero, hzero, hin, hout, hstart, Nat.two_pow_pos 32⟩

omit hs in
/-- Input joins `IN` (R235): an open MatchFinder knows more. -/
theorem State.Units.mfAbsorb (h : s.Units) (last : Bool) : (s.mfAbsorb last).Units where
  channel := h.channel
  window := h.window
  staging := h.staging
  heads := h.heads
  links := h.links
  slots := h.slots
  finder hopened := by
    obtain ⟨hcap, hpos, hlevel⟩ := h.finder hopened
    refine ⟨hcap, ?_, hlevel⟩
    simp only [Mf.known, State.mfAbsorb_mf, List.length_append] at hpos ⊢
    omega

theorem execMfRun_keeps (last : Bool) : Ends s.Keeps (execMfRun last s) := by
  unfold execMfRun
  split
  · exact .next (.answered hs rfl rfl rfl rfl rfl)
  · rename_i hrefuses
    simp only [State.mfRefuses, Bool.or_eq_true, not_or, Bool.not_eq_true, Bool.not_eq_false'] at hrefuses
    obtain ⟨⟨hclosed, hopened⟩, -⟩ := hrefuses
    obtain ⟨hrun, hkeep⟩ := (hs.units.mfAbsorb last).mfRun hopened
    have hkeep' : s.KeepsRegs (s.mfAbsorb last) := ⟨fun _ _ => id, id, id⟩
    exact ends_answered ⟨hrun.inv hclosed, hkeep'.trans hkeep⟩ rfl rfl rfl rfl rfl

theorem execMfToken_keeps (index : Word) : Ends s.Keeps (execMfToken index s) := by
  unfold execMfToken
  split
  · exact .next (.answered hs rfl rfl rfl rfl rfl)
  · split <;> exact .next (.answered hs rfl rfl rfl rfl rfl)

end

/-! ### The session commands -/

section
variable {s t : State}

theorem State.InDecode.markLast (hs : s.InDecode) (last : Bool) : (s.markLast last).InDecode :=
  hs.setBk rfl rfl hs.phase hs.ranges

theorem State.InDecode.countIn (hs : s.InDecode) (n : Nat) : (s.countIn n).InDecode :=
  hs.setBk rfl rfl hs.phase hs.ranges

theorem State.keepsRegs_markLast (s : State) (last : Bool) : s.KeepsRegs (s.markLast last) := s.keepsRegs_setBk id

theorem State.keepsRegs_countIn (s : State) (n : Nat) : s.KeepsRegs (s.countIn n) := s.keepsRegs_setBk id

theorem State.keepsRegs_setIn (s : State) : s.KeepsRegs s.setIn := s.keepsRegs_setBk id

theorem State.Units.setIn (hs : s.Units) : s.setIn.Units := hs.setBk _

/-- A session command that ends with a fault (R348). -/
theorem ends_faulted (ht : t.Units) (hkeep : s.KeepsRegs t) (f : Raised) (r0 r1 : Nat) :
    Ends s.Keeps (t.closeFaulted.raiseCounts f r0 r1).finish :=
  ends_answered ⟨ht.closeFaulted.1, hkeep.trans ht.closeFaulted.2⟩ rfl rfl rfl rfl rfl

theorem feedDecode_keeps (hs : s.InDecode) (last : Bool) (outCap : Nat) :
    Ends s.Keeps (s.feedDecode params last outCap) := by
  have hpost := decEngine_post params (hs.markLast last) (some outCap)
  have hmark := s.keepsRegs_markLast last
  unfold State.feedDecode
  dsimp only
  generalize (s.markLast last).decEngine params (some outCap) = e at hpost ⊢
  cases hpost with
  | stopped => exact .fault
  | raised h => exact ends_faulted h.1 (hmark.trans h.2) _ _ _
  | status h =>
    rename_i st t
    have hcount := h.1.countIn (t.bc.nbytes - (s.markLast last).bc.nbytes)
    have hkeep := (hmark.trans h.2).trans (t.keepsRegs_countIn (t.bc.nbytes - (s.markLast last).bc.nbytes))
    dsimp only
    split
    · exact ends_answered ⟨hcount.units.closeFinished.1, hkeep.trans hcount.units.closeFinished.2⟩ rfl rfl rfl rfl rfl
    · exact ends_answered ⟨hcount.inv, hkeep⟩ rfl rfl rfl rfl rfl

theorem execBkDecompress_keeps (hs : s.Inv) : Ends s.Keeps (execBkDecompress s) := by
  obtain ⟨hstart, hkeep⟩ := hs.units.startDecode 0
  have hpost := decEngine_post params (hstart.markLast true) none
  have hmark := hkeep.trans (State.keepsRegs_markLast _ true)
  unfold execBkDecompress
  dsimp only
  generalize ((s.startSession params .decode 0).markLast true).decEngine params none = e at hpost ⊢
  cases hpost with
  | stopped => exact .fault
  | raised h => exact ends_faulted h.1.setIn ((hmark.trans h.2).trans (State.keepsRegs_setIn _)) _ _ _
  | status h =>
    rename_i t
    have hclosed := h.1.units.setIn.closeFinished
    exact ends_answered ⟨hclosed.1, ((hmark.trans h.2).trans t.keepsRegs_setIn).trans hclosed.2⟩ rfl rfl rfl rfl rfl

theorem State.InEncode.drain (hs : s.InEncode) (k : Option Nat) : (s.drain k).InEncode :=
  ⟨hs.units.congr rfl rfl rfl rfl hs.units.slots, hs.session, hs.phase⟩

theorem State.keepsRegs_drain (s : State) (k : Option Nat) : s.KeepsRegs (s.drain k) := ⟨fun _ _ => id, id, id⟩

theorem State.keepsRegs_sinkFlush (s : State) : s.KeepsRegs s.sinkFlush := ⟨fun _ _ => id, id, id⟩

theorem State.InEncode.sinkFlush (hs : s.InEncode) : s.sinkFlush.InEncode :=
  ⟨hs.units.congr rfl rfl rfl rfl hs.units.slots, hs.session, hs.phase⟩

/-- While blocks are still to come the end of the input is not marked. -/
theorem State.InEncode.encoding (hs : s.InEncode) (hp : s.bk.phase = .encRun) : s.Encoding ∧ s.bk.last = false := by
  obtain ⟨hunits, hsession, ⟨-, hlast, hflushed⟩ | hfinish⟩ := hs
  · exact ⟨⟨hunits, hsession, hp, hflushed⟩, hlast⟩
  · rw [hp] at hfinish
    cases hfinish

/-- The state the encoder engine starts from: the source's bytes have joined the input (R347, R349). -/
def State.absorbed (s : State) (last : Bool) : State :=
  ((s.mfAbsorb last).countIn s.port.src.length).markLast last

/-- The encoder on all the source holds. -/
theorem State.Encoding.run (hs : s.Encoding) (hlast : s.bk.last = false) (last : Bool) :
    EncPost (fun t => t.InEncode ∧ s.KeepsRegs t) (fun t => t.Units ∧ s.KeepsRegs t)
      ((s.absorbed last).encEngine params) := by
  obtain ⟨hunits, hsession, hphase, hflushed⟩ := hs
  have hstart : (s.absorbed last).Encoding := ⟨((hunits.mfAbsorb last).setBk _).setBk _, hsession, hphase, hflushed⟩
  have hkeep : s.KeepsRegs (s.absorbed last) := ⟨fun _ _ => id, id, id⟩
  have hpost := hstart.encEngine (by simp [State.absorbed, hlast]; exact .inr)
  generalize (s.absorbed last).encEngine params = e at hpost ⊢
  cases hpost with
  | done h => exact .done ⟨h.1, hkeep.trans h.2⟩
  | raised h => exact .raised ⟨h.1, hkeep.trans h.2⟩

theorem feedEncodeEnd_keeps (ht : t.InEncode) (hkeep : s.KeepsRegs t) (consumed produced : Nat) :
    Ends s.Keeps (t.feedEncodeEnd consumed produced).finish := by
  unfold State.feedEncodeEnd
  split
  · exact ends_answered ⟨ht.inv, hkeep⟩ rfl rfl rfl rfl rfl
  · split
    · have hclosed := ht.sinkFlush.units.closeFinished
      exact ends_answered ⟨hclosed.1, (hkeep.trans t.keepsRegs_sinkFlush).trans hclosed.2⟩ rfl rfl rfl rfl rfl
    · exact ends_answered ⟨ht.inv, hkeep⟩ rfl rfl rfl rfl rfl

theorem feedEncode_keeps (hs : s.InEncode) (last : Bool) (outCap : Nat) :
    Ends s.Keeps (s.feedEncode params last outCap) := by
  have hdrain := hs.drain (some outCap)
  have hkeep := s.keepsRegs_drain (some outCap)
  unfold State.feedEncode
  dsimp only
  split
  · rename_i hgo
    obtain ⟨hencoding, hlast⟩ := hdrain.encoding hgo.2
    have hpost := hencoding.run hlast last
    rw [State.absorbed] at hpost
    generalize State.encEngine params _ = e at hpost ⊢
    cases hpost with
    | raised h => exact ends_faulted h.1 (hkeep.trans h.2) _ _ _
    | done h => exact feedEncodeEnd_keeps (h.1.drain _) ((hkeep.trans h.2).trans (State.keepsRegs_drain _ _)) _ _
  · exact feedEncodeEnd_keeps hdrain hkeep _ _

theorem execBkCompress_keeps (hs : s.Inv) (level : BitVec 4) : Ends s.Keeps (execBkCompress level s) := by
  unfold execBkCompress
  split
  · exact .next (.answered hs rfl rfl rfl rfl rfl)
  · rename_i hlevel
    obtain ⟨hstart, hkeep⟩ := hs.units.startEncode (Nat.not_lt.mp hlevel)
    have hpost := hstart.run rfl true
    rw [State.absorbed] at hpost
    dsimp only
    generalize State.encEngine params _ = e at hpost ⊢
    cases hpost with
    | raised h => exact ends_faulted h.1 (hkeep.trans h.2) _ _ _
    | done h =>
      rename_i t
      have hclosed := (h.1.drain none).sinkFlush.units.closeFinished
      have hdrained := (t.keepsRegs_drain none).trans (State.keepsRegs_sinkFlush _)
      exact ends_answered ⟨hclosed.1, ((hkeep.trans h.2).trans hdrained).trans hclosed.2⟩ rfl rfl rfl rfl rfl

theorem execBkInit_keeps (hs : s.Inv) (direction : Direction) (level : BitVec 4) :
    Ends s.Keeps (execBkInit direction level s) := by
  unfold execBkInit
  split
  · exact .next (.answered hs rfl rfl rfl rfl rfl)
  · rename_i hlevel
    have hstart : (s.startSession params direction level.toNat).Inv ∧
        s.KeepsRegs (s.startSession params direction level.toNat) := by
      cases direction with
      | decode =>
        obtain ⟨hstart, hkeep⟩ := hs.units.startDecode level.toNat
        exact ⟨hstart.inv, hkeep⟩
      | encode =>
        rw [not_and, Nat.not_lt] at hlevel
        obtain ⟨⟨hunits, hsession, hphase, hflushed⟩, hkeep⟩ := hs.units.startEncode (hlevel rfl)
        exact ⟨State.InEncode.inv ⟨hunits, hsession, .inl ⟨hphase, rfl, hflushed⟩⟩, hkeep⟩
    obtain ⟨hinv, hkeep⟩ := hstart
    have hkeeps : s.Keeps (s.startSession params direction level.toNat) :=
      ⟨hinv, hkeep, s.startSession_countersFit direction level.toNat⟩
    exact .next (hkeeps.trans (.answered hinv rfl rfl rfl rfl rfl))

theorem execBkFeed_keeps (hs : s.Inv) (last : Bool) (outCap : Word) : Ends s.Keeps (execBkFeed last outCap s) := by
  unfold execBkFeed
  split
  · rename_i hopen
    rw [State.sessionOpen, Phase.isOpen_eq, Bool.or_eq_true] at hopen
    split
    · rename_i hdir
      rcases hopen with hp | hp
      · exact feedDecode_keeps (hs.inDecode hp) last _
      · have hdir' := (hs.encodes hp).1
        rw [hdir] at hdir'
        cases hdir'
    · rename_i hdir
      rcases hopen with hp | hp
      · have hdir' := (hs.decodes hp).1
        rw [hdir] at hdir'
        cases hdir'
      · exact feedEncode_keeps (hs.inEncode hp) last _
  · exact .next (.answered hs rfl rfl rfl rfl rfl)

end

/-! ### Every step -/

/-- What every command keeps. -/
theorem exec_keeps {s : State} (hs : s.Inv) (i : Instr) : Ends s.Keeps (exec i s) := by
  cases i with
  | regRead number => exact execRegRead_keeps hs number
  | coreReset => exact execCoreReset_keeps s
  | bcInit mode order => exact execBcInit_keeps hs mode order
  | bcWriteBits value count => exact execBcWriteBits_keeps hs value count
  | bcReadBits count => exact execBcReadBits_keeps hs count
  | bcPeekBits count => exact execBcPeekBits_keeps hs count
  | bcAlign => exact execBcAlign_keeps hs
  | bcFlush => exact execBcFlush_keeps hs
  | bcClose => exact execBcClose_keeps hs
  | swInit capacity => exact execSwInit_keeps hs capacity
  | swPush byte => exact execSwPush_keeps hs byte
  | swGet offset => exact execSwGet_keeps hs offset
  | swCopy distance length => exact execSwCopy_keeps hs distance length
  | hcStage index value => exact execHcStage_keeps hs index value
  | hcBuildFreq slot n limit => exact execHcBuildFreq_keeps hs slot n limit
  | hcBuildLen slot n limit => exact execHcBuildLen_keeps hs slot n limit
  | hcEncode slot symbol => exact execHcEncode_keeps hs slot symbol
  | hcDecode slot => exact execHcDecode_keeps hs slot
  | hcDiscard slot => exact execHcDiscard_keeps hs slot
  | mfInit level => exact execMfInit_keeps hs level
  | mfRun last => exact execMfRun_keeps hs last
  | mfToken index => exact execMfToken_keeps hs index
  | bkInit direction level => exact execBkInit_keeps hs direction level
  | bkCompress level => exact execBkCompress_keeps hs level
  | bkDecompress => exact execBkDecompress_keeps hs
  | bkFeed last outCap => exact execBkFeed_keeps hs last outCap

/-- What every step keeps. -/
theorem step_keeps {s : State} (hs : s.Inv) : Ends s.Keeps (step s) := by
  have hscript : ∀ l, s.Keeps (s.setScript l) := fun l => .answered hs rfl rfl rfl rfl rfl
  unfold step
  split
  · exact .next (.answered hs rfl rfl rfl rfl rfl)
  · exact .next (.answered hs rfl rfl rfl rfl rfl)
  · exact .next ((hscript _).trans (State.keeps_coreReset _))
  · split
    · exact (exec_keeps (hscript _).inv _).imp fun t => (hscript _).trans
    · exact .next (.answered hs rfl rfl rfl rfl rfl)

/-- Settles O11, command by command (`step_keeps`). -/
theorem stepKeepsInvariant : Obligations.StepKeepsInvariant :=
  fun _ _ hs hstep => ((step_keeps hs).of_next hstep).inv

/-- The constant tables are complete (R32, R209). -/
theorem State.constant_complete (s : State) : (s.table 3).Complete ∧ (s.table 4).Complete :=
  ⟨fixedLit_good.complete (by decide) (by decide), fixedDist_good.complete (by decide) (by decide)⟩

/-- Settles O14: completeness is a property every construction gives a slot and nothing takes away (`TableRule`). -/
theorem builtTablesStayComplete : Obligations.BuiltTablesStayComplete := by
  intro s t hs hcomplete hstep k hk
  have hslots := ((step_keeps hs).of_next hstep).regs.slots _ tableRule_complete ((Hc.slots_iff _ s).mpr hcomplete)
  by_cases hbuilt : k < 3
  · exact (Hc.slots_iff _ t).mp hslots k hbuilt
  · obtain ⟨hlit, hdist⟩ := t.constant_complete
    obtain rfl | rfl : k = 3 ∨ k = 4 := by omega
    · exact fun _ => hlit
    · exact fun _ => hdist

/-- Settles O13: the invariant bounds the channel and the window, `State.KeepsRegs` the other registers. -/
theorem registersKeepTheirWidths : Obligations.RegistersKeepTheirWidths := by
  intro s t hs ⟨hchannel, hwindow, htables, hfinder, hcodec, hcounts⟩ hstep
  obtain ⟨hinv, hregs, hcounts'⟩ := (step_keeps hs).of_next hstep
  have hnbits := hinv.channel.2.1
  have hcap := hinv.window.cap
  exact ⟨by omega, by omega, (Hc.slots_iff _ t).mp (hregs.slots _ tableRule_widths ((Hc.slots_iff _ s).mpr htables)),
    hregs.finder hfinder, hregs.codec hcodec, hcounts' hcounts⟩

/-- The reset state is where `CORE_RESET` leads (R39, R353). -/
theorem State.reset_eq_coreReset : State.reset = ({ State.reset with gen := 0 } : State).coreReset := rfl

/-- Settles O9. -/
theorem resetHasInvariant : Obligations.ResetHasInvariant := by
  refine ⟨State.reset_eq_coreReset ▸ (State.keeps_coreReset _).inv, ?_, by decide⟩
  exact ⟨by decide, by decide, by decide, by decide, by decide, by decide⟩

end Sys2Proof.Machine
end

section

namespace Sys2Proof.Machine

/-! ### The host's side

What the host sees of a command is its one response and the error registers; the engines touch neither. -/

/-- The error registers, the responses and the host's list are the same. -/
abbrev State.SameHost (s t : State) : Prop :=
  t.err = s.err ∧ t.port.responses = s.port.responses ∧ t.port.script = s.port.script

theorem State.SameHost.refl (s : State) : s.SameHost s := ⟨rfl, rfl, rfl⟩

theorem State.SameHost.trans {s t u : State} (h : s.SameHost t) (h' : t.SameHost u) : s.SameHost u :=
  ⟨h'.1.trans h.1, h'.2.1.trans h.2.1, h'.2.2.trans h.2.2⟩

theorem State.SameHost.of_eq {s t : State} (herr : t.err = s.err) (hport : t.port = s.port) : s.SameHost t :=
  ⟨herr, by rw [hport], by rw [hport]⟩

theorem State.sameHost_discard (s : State) (k : Nat) : s.SameHost (s.discard k) := .of_eq (by simp) (by simp)

theorem State.sameHost_putBuilt (s : State) (k : Nat) (b : Built) : s.SameHost (s.putBuilt k b) :=
  .of_eq (by simp) (by simp)

theorem State.sameHost_closeFinished (s : State) : s.SameHost s.closeFinished := .of_eq (by simp) (by simp)

/-- A piece of a micro-step, however it ends. -/
abbrev State.HostPost {α : Type} (s : State) (r : Res α) : Prop :=
  r.Post (fun _ t => s.SameHost t) s.SameHost s.SameHost

theorem State.HostPost.since {α : Type} {s t : State} {r : Res α} (h : s.SameHost t) (ht : t.HostPost r) : s.HostPost r :=
  Res.Post.imp ht (fun _ _ => h.trans) (fun _ => h.trans) (fun _ => h.trans)

theorem State.HostPost.andThen {α β : Type} {s : State} {r : Res α} {k : α → State → Res β} (h : s.HostPost r)
    (hk : ∀ a t, s.SameHost t → t.HostPost (k a t)) : s.HostPost (r.andThen k) :=
  Res.Post.andThen h fun a t ht => (hk a t ht).since ht

section
variable (P : Config.Params) (s : State)

theorem State.starve_hostPost {α : Type} (missing : Nat) : s.HostPost (s.starve missing : Res α) :=
  s.starve_post missing (.refl s) (.refl s)

theorem State.need_hostPost (n : Nat) : s.HostPost (s.need n) := by
  unfold State.need
  dsimp only
  split
  · exact State.starve_hostPost (s.setChannel _) _
  · exact .done (.refl s)

theorem State.peek_hostPost (n : Nat) : s.HostPost (s.peek P n) :=
  (s.need_hostPost n).andThen fun _ t _ => .done (.refl t)

theorem State.read_hostPost (n : Nat) : s.HostPost (s.read P n) :=
  (s.peek_hostPost P n).andThen fun _ t _ => .done (.refl t)

theorem State.lookup_hostPost (slot : Nat) : s.HostPost (s.lookup P slot) := by
  unfold State.lookup
  dsimp only
  split
  · exact .done (.refl s)
  · exact State.starve_hostPost (s.setChannel _) _
  · exact .raised (.refl s)

theorem State.decodeSym_hostPost (slot : Nat) : s.HostPost (s.decodeSym P slot) :=
  (s.lookup_hostPost P slot).andThen fun _ t _ => .done (.refl t)

theorem State.buildLen_hostPost (slot n limit : Nat) : s.HostPost (s.buildLen slot n limit) := by
  unfold State.buildLen
  dsimp only
  split
  · exact .done (s.sameHost_putBuilt slot _)
  · exact .raised (s.sameHost_putBuilt slot _)

theorem State.sameHost_endBlock : s.SameHost s.endBlock := by
  unfold State.endBlock
  dsimp only
  split
  · exact (s.sameHost_discard 0).trans (State.sameHost_discard _ 1)
  · exact .refl s

theorem stepHeader_host : s.HostPost (stepHeader P s) := by
  refine (s.read_hostPost P 3).andThen fun h t _ => ?_
  dsimp only
  split
  · exact .done (.refl t)
  split
  · exact .done (.refl t)
  split
  · exact .done (.refl t)
  · exact .raised (.refl t)

theorem stepStoredLen_host : s.HostPost (stepStoredLen P s) := by
  refine (s.read_hostPost P 32).andThen fun w t _ => ?_
  split
  · exact .raised (.refl t)
  · exact .done (.refl t)

theorem stepStoredCopy_host : s.HostPost (stepStoredCopy P s) := by
  unfold stepStoredCopy
  split
  · exact .done s.sameHost_endBlock
  · exact (s.read_hostPost P 8).andThen fun b t _ => .done (.refl t)

theorem stepDynHdr_host : s.HostPost (stepDynHdr P s) := by
  refine (s.read_hostPost P 14).andThen fun w t _ => ?_
  dsimp only
  split
  · exact .raised (.refl t)
  · exact .done (.refl t)

theorem stepDynCl_host : s.HostPost (stepDynCl P s) := by
  refine (s.read_hostPost P 3).andThen fun v t _ => ?_
  dsimp only
  split
  · refine State.HostPost.since ?_ ((State.buildLen_hostPost _ 2 19 7).andThen fun _ u _ => .done (.refl u))
    exact ⟨rfl, rfl, rfl⟩
  · exact .done (.refl t)

theorem stepDynDone_host : s.HostPost (stepDynDone s) :=
  (s.buildLen_hostPost 0 s.bk.nlit 15).andThen fun _ t _ =>
    (State.buildLen_hostPost (t.stage 0 _) 1 t.bk.ndist 15).andThen fun _ u _ => .done (u.sameHost_discard 2)

theorem stepDynLens_host : s.HostPost (stepDynLens P s) := by
  unfold stepDynLens
  split
  · exact stepDynDone_host s
  · refine (s.lookup_hostPost P 2).andThen fun sl t _ => ?_
    refine (t.peek_hostPost P _).andThen fun w u _ => ?_
    split
    · exact .raised (.refl u)
    · split
      · exact .raised (.refl u)
      · exact .done (.refl u)

theorem stepSymbol_host : s.HostPost (stepSymbol P s) := by
  refine (s.decodeSym_hostPost P s.litSlot).andThen fun sym t _ => ?_
  split
  · exact .done (.refl t)
  split
  · exact .done t.sameHost_endBlock
  split
  · exact .done (.refl t)
  · exact .raised (.refl t)

theorem stepLenExtra_host : s.HostPost (stepLenExtra P s) := by
  unfold stepLenExtra
  generalize s.bk.lenSym - 257 = i
  exact (s.read_hostPost P (lextra i)).andThen fun e t _ => .done (.refl t)

theorem stepDistSym_host : s.HostPost (stepDistSym P s) := by
  refine (s.decodeSym_hostPost P s.distSlot).andThen fun j t _ => ?_
  split
  · exact .raised (.refl t)
  · exact .done (.refl t)

theorem stepDistExtra_host : s.HostPost (stepDistExtra P s) := by
  refine (s.read_hostPost P _).andThen fun e t _ => ?_
  dsimp only
  split
  · exact .raised (.refl t)
  · exact .done (.refl t)

theorem stepCopy_host : s.HostPost (stepCopy s) := by
  unfold stepCopy
  split
  · exact .done (.refl s)
  · split
    · exact .raised (.refl s)
    · exact .done (.refl s)

theorem microStep_host {r : Res Unit} (h : microStep P s = some r) : s.HostPost r := by
  unfold microStep at h
  cases hp : s.bk.phase <;> simp only [hp, Option.some.injEq, reduceCtorEq] at h <;> subst h
  case header => exact stepHeader_host P s
  case storedLen => exact stepStoredLen_host P s
  case storedCopy => exact stepStoredCopy_host P s
  case dynHdr => exact stepDynHdr_host P s
  case dynCl => exact stepDynCl_host P s
  case dynLens => exact stepDynLens_host P s
  case symbol => exact stepSymbol_host P s
  case lenExtra => exact stepLenExtra_host P s
  case distSym => exact stepDistSym_host P s
  case distExtra => exact stepDistExtra_host P s
  case copy => exact stepCopy_host s

end

section
variable (P : Config.Params)

theorem decLoop_host (outCap : Option Nat) (out0 : Nat) : ∀ (fuel : Nat) (s : State),
    (decLoop P outCap out0 fuel s).Post s.SameHost s.SameHost
  | 0, _ => .stopped
  | fuel + 1, s => by
    rw [decLoop]
    split
    · exact .status (.refl s)
    · split
      · exact .status (.refl s)
      · split
        · exact .stopped
        · rename_i a t hstep
          cases microStep_host P s hstep with
          | done ht =>
            have hloop := decLoop_host outCap out0 fuel t
            generalize decLoop P outCap out0 fuel t = e at hloop ⊢
            cases hloop with
            | status hu => exact .status (State.SameHost.trans ht hu)
            | raised hu => exact .raised (State.SameHost.trans ht hu)
            | stopped => exact .stopped
        · rename_i t hstep
          cases microStep_host P s hstep with
          | held ht => exact .status ht
        · rename_i f t hstep
          cases microStep_host P s hstep with
          | raised ht => exact .raised ht

theorem decEngine_host (s : State) (outCap : Option Nat) : (s.decEngine P outCap).Post s.SameHost s.SameHost :=
  decLoop_host P outCap s.bk.outTotal s.engineFuel s

theorem State.sameHost_putPlan (s : State) (tokens : List Token) (plan : DynPlan) : s.SameHost (s.putPlan tokens plan) :=
  .of_eq (by simp [State.putPlan]) (by simp [State.putPlan])

omit P in
theorem State.sameHost_writeBlock (s : State) (b : Bk) (P : Config.Params) (ops : List WOp) :
    s.SameHost (((({ s with bk := b }.runEnc P ops).discard 0).discard 1).discard 2) :=
  .trans (t := { s with bk := b }.runEnc P ops) (.refl s)
    (((State.sameHost_discard _ 0).trans (State.sameHost_discard _ 1)).trans (State.sameHost_discard _ 2))

theorem State.emitBlock_host (s : State) (m : Nat) (final : Bool) :
    EncPost s.SameHost s.SameHost (s.emitBlock P m final) := by
  unfold State.emitBlock
  dsimp only
  split
  · exact .raised (.refl s)
  · rename_i plan _
    generalize chooseKind P s.bk.level plan _ s.bc.total _ = kind
    generalize blockOps kind _ plan _ final = ops
    have hplanned := State.sameHost_putPlan { s with bk := { s.bk with final := final } }
      ((s.mf.tok.take m).map Token.ofWord) plan
    generalize State.putPlan _ _ plan = u at hplanned ⊢
    exact .done (State.SameHost.trans hplanned (u.sameHost_writeBlock { u.bk with kind := kindCode kind } P ops))

theorem State.emitFull_host : ∀ (fuel : Nat) (s : State), EncPost s.SameHost s.SameHost (s.emitFull P fuel)
  | 0, s => .done (.refl s)
  | fuel + 1, s => by
    rw [State.emitFull]
    split
    · have hblock := s.emitBlock_host P P.blockMaxTokens false
      generalize s.emitBlock P P.blockMaxTokens false = e at hblock ⊢
      cases hblock with
      | raised h => exact .raised h
      | done h =>
        rename_i t
        have hrest := State.emitFull_host fuel t
        dsimp only
        generalize t.emitFull P fuel = e at hrest ⊢
        cases hrest with
        | raised h' => exact .raised (State.SameHost.trans h h')
        | done h' => exact .done (State.SameHost.trans h h')
    · exact .done (.refl s)

theorem State.emitFinal_host (s : State) : EncPost s.SameHost s.SameHost (s.emitFinal P) := by
  unfold State.emitFinal
  split
  · have hblock := s.emitBlock_host P s.mf.ntok true
    generalize s.emitBlock P s.mf.ntok true = e at hblock ⊢
    cases hblock with
    | raised h => exact .raised h
    | done h => exact .done h
  · exact .done (.refl s)

theorem State.encEngine_host (s : State) : EncPost s.SameHost s.SameHost (s.encEngine P) := by
  unfold State.encEngine
  have hfull := State.emitFull_host P (s.mfRun P).mf.ntok (s.mfRun P)
  dsimp only
  generalize (s.mfRun P).emitFull P (s.mfRun P).mf.ntok = e at hfull ⊢
  cases hfull with
  | raised h => exact .raised h
  | done h =>
    rename_i t
    have hfinal := t.emitFinal_host P
    dsimp only
    generalize t.emitFinal P = e at hfinal ⊢
    cases hfinal with
    | raised h' => exact .raised (State.SameHost.trans h h')
    | done h' => exact .done (State.SameHost.trans h h')

end

/-! ### One response -/

theorem ErrKind.code_ne_zero (k : ErrKind) : k.code ≠ 0 := by cases k <;> decide

/-- A command has answered: with one response, the error registers being `e` unless the response reports an error. -/
structure State.Responds (s : State) (e : ErrRegs) (t : State) : Prop where
  response : ∃ r, t.port.responses = s.port.responses ++ [r] ∧ (r.err = 0 → t.err = e)

section
variable {s t : State} {e : ErrRegs}

theorem responds_ok (hresponses : t.port.responses = s.port.responses) (herr : t.err = e) (r0 r1 : Nat) :
    s.Responds e (t.ok r0 r1) := ⟨_, congrArg (· ++ [_]) hresponses, fun _ => herr⟩

theorem responds_raiseDirect (hresponses : t.port.responses = s.port.responses) (f : Raised) :
    s.Responds e (t.raiseDirect f) :=
  ⟨_, congrArg (· ++ [_]) hresponses, fun h => absurd h f.kind.code_ne_zero⟩

theorem responds_raiseCounts (hresponses : t.port.responses = s.port.responses) (f : Raised) (r0 r1 : Nat) :
    s.Responds e (t.raiseCounts f r0 r1) :=
  ⟨_, congrArg (· ++ [_]) hresponses, fun h => absurd h f.kind.code_ne_zero⟩

theorem ends_ok (hresponses : t.port.responses = s.port.responses) (herr : t.err = e) {r0 r1 : Nat} :
    Ends (s.Responds e) (.next (t.ok r0 r1)) := .next (responds_ok hresponses herr r0 r1)

theorem ends_ok_finish (hresponses : t.port.responses = s.port.responses) (herr : t.err = e) {r0 r1 : Nat} :
    Ends (s.Responds e) (t.ok r0 r1).finish := .of_finish fun _ => responds_ok hresponses herr r0 r1

theorem ends_feedOk_finish (hresponses : t.port.responses = s.port.responses) (herr : t.err = e) {st : FeedStatus}
    {r0 r1 : Nat} : Ends (s.Responds e) (t.feedOk st r0 r1).finish :=
  .of_finish fun _ => ⟨_, congrArg (· ++ [_]) hresponses, fun _ => herr⟩

theorem ends_raiseDirect (hresponses : t.port.responses = s.port.responses) {f : Raised} :
    Ends (s.Responds e) (.next (t.raiseDirect f)) := .next (responds_raiseDirect hresponses f)

theorem ends_raiseDirect_finish (hresponses : t.port.responses = s.port.responses) {f : Raised} :
    Ends (s.Responds e) (t.raiseDirect f).finish := .of_finish fun _ => responds_raiseDirect hresponses f

theorem ends_raiseCounts (hresponses : t.port.responses = s.port.responses) {f : Raised} {r0 r1 : Nat} :
    Ends (s.Responds e) (.next (t.raiseCounts f r0 r1)) := .next (responds_raiseCounts hresponses f r0 r1)

theorem ends_raiseCounts_finish (hresponses : t.port.responses = s.port.responses) {f : Raised} {r0 r1 : Nat} :
    Ends (s.Responds e) (t.raiseCounts f r0 r1).finish := .of_finish fun _ => responds_raiseCounts hresponses f r0 r1

/-- A session command that ends with a fault (R348). -/
theorem ends_closeFaulted (hresponses : t.port.responses = s.port.responses) {f : Raised} {r0 r1 : Nat} :
    Ends (s.Responds e) (t.closeFaulted.raiseCounts f r0 r1).finish :=
  ends_raiseCounts_finish (t := t.closeFaulted) hresponses

/-- A refused command of units 1 to 4. -/
theorem ends_misuse (op : BitVec 8) : Ends (s.Responds e) (.next (s.misuse op)) := ends_raiseDirect rfl

theorem ends_misuseWith (op : BitVec 8) (info : Nat) : Ends (s.Responds e) (.next (s.misuseWith op info)) :=
  ends_raiseDirect rfl

end

end Sys2Proof.Machine
end

section

namespace Sys2Proof.Machine

/-! ### What each command answers -/

section
variable {s : State}

theorem execRegRead_responds (number : BitVec 8) : Ends (s.Responds s.err) (execRegRead number s) := by
  unfold execRegRead
  split
  · exact ends_ok (by rfl) (by rfl)
  · exact ends_misuseWith _ _

theorem execBcInit_responds (mode : Mode) (order : Order) : Ends (s.Responds s.err) (execBcInit mode order s) := by
  unfold execBcInit
  split
  · exact ends_misuse _
  · exact ends_ok (by rfl) (by rfl)

theorem execBcWriteBits_responds (value : Word) (count : BitVec 6) :
    Ends (s.Responds s.err) (execBcWriteBits value count s) := by
  unfold execBcWriteBits
  split
  · exact ends_misuse _
  · exact ends_ok_finish (by rfl) (by rfl)

theorem execBcReadBits_responds (count : BitVec 6) : Ends (s.Responds s.err) (execBcReadBits count s) := by
  unfold execBcReadBits
  split
  · exact ends_misuse _
  · dsimp only
    split
    · exact ends_raiseDirect_finish (by rfl)
    · exact ends_ok_finish (by rfl) (by rfl)

theorem execBcPeekBits_responds (count : BitVec 6) : Ends (s.Responds s.err) (execBcPeekBits count s) := by
  unfold execBcPeekBits
  split
  · exact ends_misuse _
  · dsimp only
    split
    · exact ends_raiseDirect_finish (by rfl)
    · exact ends_ok_finish (by rfl) (by rfl)

theorem execBcAlign_responds : Ends (s.Responds s.err) (execBcAlign s) := by
  unfold execBcAlign
  split
  · exact ends_misuse _
  · split
    · split
      · exact ends_misuse _
      · exact ends_ok_finish (by rfl) (by rfl)
    · exact ends_ok_finish (by rfl) (by rfl)

theorem execBcFlush_responds : Ends (s.Responds s.err) (execBcFlush s) := by
  unfold execBcFlush
  split
  · exact ends_misuse _
  · exact ends_ok_finish (by rfl) (by rfl)

theorem execBcClose_responds : Ends (s.Responds s.err) (execBcClose s) := by
  unfold execBcClose
  split
  · exact ends_misuse _
  · dsimp only
    split
    · exact ends_ok_finish (by rfl) (by rfl)
    · exact ends_ok_finish (by rfl) (by rfl)

theorem execSwInit_responds (capacity : BitVec 17) : Ends (s.Responds s.err) (execSwInit capacity s) := by
  unfold execSwInit
  split
  · exact ends_misuse _
  · split
    · exact ends_misuseWith _ _
    · exact ends_ok (by rfl) (by rfl)

theorem execSwPush_responds (byte : Byte) : Ends (s.Responds s.err) (execSwPush byte s) := by
  unfold execSwPush
  split
  · exact ends_misuse _
  · exact ends_ok_finish (by rfl) (by rfl)

theorem execSwGet_responds (offset : Word) : Ends (s.Responds s.err) (execSwGet offset s) := by
  unfold execSwGet
  split
  · exact ends_misuse _
  · split
    · exact ends_raiseDirect (by rfl)
    · exact ends_ok (by rfl) (by rfl)

theorem execSwCopy_responds (distance length : Word) : Ends (s.Responds s.err) (execSwCopy distance length s) := by
  unfold execSwCopy
  split
  · exact ends_misuse _
  · split
    · exact ends_ok_finish (by rfl) (by rfl)
    · exact ends_raiseDirect (by rfl)

theorem execHcStage_responds (index : BitVec 9) (value : Word) : Ends (s.Responds s.err) (execHcStage index value s) := by
  unfold execHcStage
  split
  · exact ends_misuse _
  · exact ends_ok (by rfl) (by rfl)

theorem answerBuilt_responds (slot : Nat) (b : Built) : Ends (s.Responds s.err) (s.answerBuilt slot b) := by
  obtain ⟨herr, hresponses, -⟩ := s.sameHost_putBuilt slot b
  cases b with
  | table t => exact ends_ok hresponses herr
  | failed info => exact ends_raiseDirect hresponses

theorem execHcBuildFreq_responds (slot : BitVec 4) (n : BitVec 9) (limit : BitVec 4) :
    Ends (s.Responds s.err) (execHcBuildFreq slot n limit s) := by
  unfold execHcBuildFreq
  split
  · exact ends_misuse _
  · exact answerBuilt_responds _ _

theorem execHcBuildLen_responds (slot : BitVec 4) (n : BitVec 9) (limit : BitVec 4) :
    Ends (s.Responds s.err) (execHcBuildLen slot n limit s) := by
  unfold execHcBuildLen
  split
  · exact ends_misuse _
  · exact answerBuilt_responds _ _

theorem execHcEncode_responds (slot : BitVec 4) (symbol : BitVec 9) :
    Ends (s.Responds s.err) (execHcEncode slot symbol s) := by
  unfold execHcEncode
  split
  · exact ends_misuse _
  · split
    · exact ends_misuseWith _ _
    · exact ends_ok (by rfl) (by rfl)

theorem execHcDecode_responds (slot : BitVec 4) : Ends (s.Responds s.err) (execHcDecode slot s) := by
  unfold execHcDecode
  split
  · exact ends_misuse _
  · dsimp only
    split
    · exact ends_ok_finish (by rfl) (by rfl)
    · exact ends_raiseDirect_finish (by rfl)
    · exact ends_raiseDirect_finish (by rfl)

theorem execHcDiscard_responds (slot : BitVec 4) : Ends (s.Responds s.err) (execHcDiscard slot s) := by
  unfold execHcDiscard
  split
  · exact ends_misuse _
  · obtain ⟨herr, hresponses, -⟩ := s.sameHost_discard slot.toNat
    exact ends_ok hresponses herr

theorem execMfInit_responds (level : BitVec 4) : Ends (s.Responds s.err) (execMfInit level s) := by
  unfold execMfInit
  split
  · exact ends_misuse _
  · split
    · exact ends_misuseWith _ _
    · exact ends_ok (by rfl) (by rfl)

theorem execMfRun_responds (last : Bool) : Ends (s.Responds s.err) (execMfRun last s) := by
  unfold execMfRun
  split
  · exact ends_misuse _
  · exact ends_ok_finish (by rfl) (by rfl)

theorem execMfToken_responds (index : Word) : Ends (s.Responds s.err) (execMfToken index s) := by
  unfold execMfToken
  split
  · exact ends_misuse _
  · split
    · exact ends_misuseWith _ _
    · exact ends_ok (by rfl) (by rfl)

end

/-! ### The session commands -/

/-- The error registers after reset, and after the start of a session (R39, R343). -/
def ErrRegs.zero : ErrRegs := { kind := 0, unit := 0, info := 0 }

theorem State.abandon_port (s : State) : s.abandon.port = s.port := by
  unfold State.abandon
  split <;> rfl

theorem State.abandon_sw (s : State) : s.abandon.sw = s.sw := by
  unfold State.abandon
  split <;> rfl

@[simp] theorem State.startSession_port (s : State) (P : Config.Params) (dir : Direction) (level : Nat) :
    (s.startSession P dir level).port = s.port := by
  cases dir <;> exact s.abandon.discardAll_port.trans s.abandon_port

@[simp] theorem State.startSession_err (s : State) (P : Config.Params) (dir : Direction) (level : Nat) :
    (s.startSession P dir level).err = ErrRegs.zero := by
  cases dir <;> rfl

section
variable {s : State}

theorem execBkInit_responds (direction : Direction) (level : BitVec 4) :
    Ends (s.Responds .zero) (execBkInit direction level s) := by
  unfold execBkInit
  split
  · exact ends_misuseWith _ _
  · exact ends_ok (by rw [State.startSession_port]) (State.startSession_err _ _ _ _)

theorem execBkCompress_responds (level : BitVec 4) : Ends (s.Responds .zero) (execBkCompress level s) := by
  have hresponses : (s.startSession params .encode level.toNat).port.responses = s.port.responses := by simp
  have herr := s.startSession_err params .encode level.toNat
  unfold execBkCompress
  dsimp only
  generalize s.startSession params .encode level.toNat = u at hresponses herr ⊢
  split
  · exact ends_raiseCounts (by rfl)
  · have hpost : EncPost u.SameHost u.SameHost _ := (u.absorbed true).encEngine_host params
    rw [State.absorbed] at hpost
    generalize State.encEngine params _ = e at hpost ⊢
    cases hpost with
    | raised h =>
      dsimp only
      exact ends_closeFaulted (h.2.1.trans hresponses)
    | done h =>
      rename_i t
      obtain ⟨herr', hresponses', -⟩ := State.SameHost.trans (t := (t.drain none).sinkFlush) h
        (State.sameHost_closeFinished _)
      exact ends_ok_finish (hresponses'.trans hresponses) (herr'.trans herr)

theorem execBkDecompress_responds : Ends (s.Responds .zero) (execBkDecompress s) := by
  have hresponses : (s.startSession params .decode 0).port.responses = s.port.responses := by simp
  have herr := s.startSession_err params .decode 0
  unfold execBkDecompress
  dsimp only
  generalize s.startSession params .decode 0 = u at hresponses herr ⊢
  have hpost : EngineEnd.Post u.SameHost u.SameHost _ := decEngine_host params (u.markLast true) none
  generalize State.decEngine params _ none = e at hpost ⊢
  cases hpost with
  | stopped => exact .fault
  | raised h =>
    dsimp only
    exact ends_closeFaulted (t := State.setIn _) (h.2.1.trans hresponses)
  | status h =>
    rename_i t
    obtain ⟨herr', hresponses', -⟩ := State.SameHost.trans (t := t.setIn) h (State.sameHost_closeFinished _)
    exact ends_ok_finish (hresponses'.trans hresponses) (herr'.trans herr)

theorem feedDecode_responds (last : Bool) (outCap : Nat) : Ends (s.Responds s.err) (s.feedDecode params last outCap) := by
  have hpost : EngineEnd.Post s.SameHost s.SameHost _ := decEngine_host params (s.markLast last) (some outCap)
  unfold State.feedDecode
  dsimp only
  generalize (s.markLast last).decEngine params (some outCap) = e at hpost ⊢
  cases hpost with
  | stopped => exact .fault
  | raised h =>
    dsimp only
    exact ends_closeFaulted h.2.1
  | status h =>
    rename_i st t
    dsimp only
    split
    · obtain ⟨herr, hresponses, -⟩ := State.SameHost.trans (t := t.countIn (t.bc.nbytes - (s.markLast last).bc.nbytes)) h
        (State.sameHost_closeFinished _)
      exact ends_feedOk_finish hresponses herr
    · exact ends_feedOk_finish (t := t.countIn _) h.2.1 h.1

theorem feedEncodeEnd_responds {t : State} (h : s.SameHost t) (consumed produced : Nat) :
    Ends (s.Responds s.err) (t.feedEncodeEnd consumed produced).finish := by
  unfold State.feedEncodeEnd
  split
  · exact ends_feedOk_finish h.2.1 h.1
  · split
    · obtain ⟨herr, hresponses, -⟩ := t.sinkFlush.sameHost_closeFinished
      exact ends_feedOk_finish (hresponses.trans h.2.1) (herr.trans h.1)
    · exact ends_feedOk_finish h.2.1 h.1

theorem feedEncode_responds (last : Bool) (outCap : Nat) : Ends (s.Responds s.err) (s.feedEncode params last outCap) := by
  unfold State.feedEncode
  dsimp only
  split
  · have hpost : EncPost s.SameHost s.SameHost _ := ((s.drain (some outCap)).absorbed last).encEngine_host params
    rw [State.absorbed] at hpost
    generalize State.encEngine params _ = e at hpost ⊢
    cases hpost with
    | raised h =>
      dsimp only
      exact ends_closeFaulted h.2.1
    | done h =>
      dsimp only
      exact feedEncodeEnd_responds (t := State.drain _ _) h _ _
  · exact feedEncodeEnd_responds (s := s) (t := s.drain _) ⟨rfl, rfl, rfl⟩ _ _

theorem execBkFeed_responds (last : Bool) (outCap : Word) : Ends (s.Responds s.err) (execBkFeed last outCap s) := by
  unfold execBkFeed
  split
  · split
    · exact feedDecode_responds _ _
    · exact feedEncode_responds _ _
  · exact ends_raiseCounts (by rfl)

end

/-! ### Every command -/

/-- What a command that succeeds leaves in the error registers (R22): four of them clear these. -/
def errAfter (i : Instr) (e : ErrRegs) : ErrRegs :=
  if i.opcode ∈ [0x02#8, 0x50#8, 0x51#8, 0x52#8] then .zero else e

theorem exec_responds (i : Instr) (s : State) : Ends (s.Responds (errAfter i s.err)) (exec i s) := by
  cases i with
  | regRead number => exact execRegRead_responds number
  | coreReset => exact ends_ok (by rfl) (by rfl)
  | bcInit mode order => exact execBcInit_responds mode order
  | bcWriteBits value count => exact execBcWriteBits_responds value count
  | bcReadBits count => exact execBcReadBits_responds count
  | bcPeekBits count => exact execBcPeekBits_responds count
  | bcAlign => exact execBcAlign_responds
  | bcFlush => exact execBcFlush_responds
  | bcClose => exact execBcClose_responds
  | swInit capacity => exact execSwInit_responds capacity
  | swPush byte => exact execSwPush_responds byte
  | swGet offset => exact execSwGet_responds offset
  | swCopy distance length => exact execSwCopy_responds distance length
  | hcStage index value => exact execHcStage_responds index value
  | hcBuildFreq slot n limit => exact execHcBuildFreq_responds slot n limit
  | hcBuildLen slot n limit => exact execHcBuildLen_responds slot n limit
  | hcEncode slot symbol => exact execHcEncode_responds slot symbol
  | hcDecode slot => exact execHcDecode_responds slot
  | hcDiscard slot => exact execHcDiscard_responds slot
  | mfInit level => exact execMfInit_responds level
  | mfRun last => exact execMfRun_responds last
  | mfToken index => exact execMfToken_responds index
  | bkInit direction level => exact execBkInit_responds direction level
  | bkCompress level => exact execBkCompress_responds level
  | bkDecompress => exact execBkDecompress_responds
  | bkFeed last outCap => exact execBkFeed_responds last outCap

/-- Settles O19: a command answers once (`exec_responds`), so the response named is the one it answers. -/
theorem errorRegistersAreSticky : Obligations.ErrorRegistersAreSticky := by
  intro i s t r hstep hresponses hok
  obtain ⟨r', hresponses', herr⟩ := ((exec_responds i s).of_next hstep).response
  obtain rfl : r = r' := by simpa using hresponses.symm.trans hresponses'
  have herr := herr hok
  unfold errAfter at herr
  split <;> rename_i hclears
  · rwa [if_pos hclears] at herr
  · rwa [if_neg hclears] at herr

/-! ### Counters at the top of their range -/

section
variable {s : State}

theorem swPush_overflow (byte : Byte) (hready : s.WindowReady) (hcursor : s.sw.cursor + 1 = 2 ^ 64) :
    exec (.swPush byte) s = .refused .counterOverflow := by
  obtain ⟨hclosed, hcap⟩ := hready
  have hrefuses : s.swRefuses = false := by simp [State.swRefuses, hclosed, hcap]
  simp only [exec, execSwPush, hrefuses]
  rw [if_neg (by simp)]
  refine State.finish_of_overflow fun hfit => ?_
  obtain ⟨-, -, hcursor', -⟩ := (State.countersFit_iff _).mp hfit
  simp only [State.ok_sw, Sw.push] at hcursor'
  omega

theorem swCopy_overflow (distance length : Word) (hready : s.WindowReady)
    (hreach : s.sw.reaches distance.toNat = true) (hcursor : 2 ^ 64 ≤ s.sw.cursor + length.toNat) :
    exec (.swCopy distance length) s = .refused .counterOverflow := by
  obtain ⟨hclosed, hcap⟩ := hready
  have hrefuses : s.swRefuses = false := by simp [State.swRefuses, hclosed, hcap]
  simp only [exec, execSwCopy, hrefuses]
  rw [if_neg (by simp), if_pos hreach]
  refine State.finish_of_overflow fun hfit => ?_
  obtain ⟨-, -, hcursor', -⟩ := (State.countersFit_iff _).mp hfit
  simp only [State.ok_sw, Sw.copyLoop_cursor] at hcursor'
  omega

theorem bcWriteBits_overflow (value : Word) (count : BitVec 6) (hready : s.ChannelReady .write)
    (hflushed : s.bc.flushed = false) (hcount : count.toNat ≤ 32) (htotal : 2 ^ 64 ≤ s.bc.total + count.toNat) :
    exec (.bcWriteBits value count) s = .refused .counterOverflow := by
  obtain ⟨hclosed, hopened, hmode, -⟩ := hready
  have hrefuses : (s.bcRefuses .write count.toNat || s.bc.flushed) = false := by
    simp [State.bcRefuses, State.bcClosed, hclosed, hopened, hmode, hflushed, hcount]
  simp only [exec, execBcWriteBits, hrefuses]
  rw [if_neg (by simp)]
  refine State.finish_of_overflow fun hfit => ?_
  obtain ⟨htotal', -⟩ := (State.countersFit_iff _).mp hfit
  obtain ⟨-, -, -, hwrite, -⟩ := Bc.write_spec params s.bc value count.toNat
  simp only [State.ok_bc, State.putChannel, hwrite] at htotal'
  omega

theorem bcReadBits_overflow (count : BitVec 6) (hready : s.ChannelReady .read) (hcount : count.toNat ≤ 32)
    (havail : count.toNat ≤ s.bc.nbits + 8 * s.port.src.length) (htotal : 2 ^ 64 ≤ s.bc.total + count.toNat) :
    exec (.bcReadBits count) s = .refused .counterOverflow := by
  obtain ⟨hclosed, hopened, hmode, -⟩ := hready
  have hrefuses : s.bcRefuses .read count.toNat = false := by
    simp [State.bcRefuses, State.bcClosed, hclosed, hopened, hmode, hcount]
  have henough : ¬(s.setChannel (Bc.need count.toNat s.bc s.port.src)).bc.nbits < count.toNat :=
    Nat.not_lt.mpr (Bc.need_suffices havail)
  simp only [exec, execBcReadBits, hrefuses]
  rw [if_neg (by simp), if_neg henough]
  refine State.finish_of_overflow fun hfit => ?_
  obtain ⟨htotal', -⟩ := (State.countersFit_iff _).mp hfit
  simp only [State.ok_bc, State.setChannel, Bc.skip, Bc.need_total] at htotal'
  omega

end

/-- Settles O15: `finish` is the only place where a command is refused. -/
theorem counterOverflowIsRefused : Obligations.CounterOverflowIsRefused :=
  ⟨fun byte _ hready hcursor => swPush_overflow byte hready hcursor,
    fun distance length _ hready hreach hcursor => swCopy_overflow distance length hready hreach hcursor,
    fun value count _ hready hflushed hcount htotal => bcWriteBits_overflow value count hready hflushed hcount htotal,
    fun count _ hready hcount havail htotal => bcReadBits_overflow count hready hcount havail htotal,
    fun i s _ h => (exec_responds i s).refusal h⟩

/-! ### The start of a session -/

theorem State.table_discardAll (s : State) {k : Nat} (hk : k < 3) : (s.discardAll.table k).valid = false := by
  interval_cases k <;> rfl

/-- Settles O49. -/
theorem bkInitResult : Obligations.BkInitResult := by
  intro direction level s hlevel
  refine ⟨s.startSession params direction level.toNat, ?_, s.startSession_port _ _ _, s.startSession_err _ _ _,
    ?_, ?_, ?_, ?_⟩
  · simp only [exec, execBkInit]
    rw [if_neg (by simpa using hlevel)]
    rfl
  · cases direction <;> rfl
  · cases direction <;> exact fun k hk => s.abandon.table_discardAll hk
  · have hsw : s.abandon.discardAll.sw = s.sw := s.abandon.discardAll_sw.trans s.abandon_sw
    cases direction <;> exact congrArg (Sw.init · windowCap) hsw
  · cases direction with
    | decode =>
      refine ⟨rfl, rfl, fun hclosed => ?_⟩
      simp [State.startSession, State.abandon, hclosed]
    | encode =>
      obtain ⟨hchain, hlazy⟩ := params_effort level (hlevel rfl)
      exact ⟨rfl, rfl, rfl, rfl, rfl, hchain, hlazy, rfl, rfl, rfl, fun h => Mem.get_all _ _⟩

end Sys2Proof.Machine
end

section

namespace Sys2Proof.Machine

/-- Settles O7. -/
theorem hostActionsAndIdle : Obligations.HostActionsAndIdle := by
  refine ⟨fun s hscript => ?_, fun s bytes rest hscript => ?_, fun s rest hscript =>
    ⟨(s.setScript rest).coreReset, ?_, rfl, rfl⟩⟩
  · rw [step, hscript]
  · rw [step, hscript]
    rfl
  · rw [step, hscript]
    rfl

/-! ### Commands that only answer (R64) -/

/-- A command that only answers: a value, the same whatever the ports hold, or an error, the same whatever the ports and
the error registers hold. -/
inductive State.Answers (s : State) (i : Instr) : Prop
  | value (r0 r1 : Nat)
      (h : ∀ p, exec i { s with port := p } = .next (({ s with port := p } : State).ok r0 r1)) : s.Answers i
  | error (f : Raised)
      (h : ∀ e p, exec i { s with err := e, port := p } = .next (({ s with err := e, port := p } : State).raiseDirect f)) :
      s.Answers i

/-- A command that only answers changes the error registers at most, and answers the same when it is repeated. -/
theorem State.Answers.idempotent {s t : State} {i : Instr} (h : s.Answers i) (ht : exec i s = .next t) :
    ∃ r, t = { s with err := t.err, port := { s.port with responses := s.port.responses ++ [r] } } ∧
      (r.err = 0 → t.err = s.err) ∧ exec i t = .next (t.respond r) := by
  cases h with
  | value r0 r1 h =>
    cases ht.symm.trans (h s.port)
    exact ⟨_, rfl, fun _ => rfl, h _⟩
  | error f h =>
    cases ht.symm.trans (h s.err s.port)
    exact ⟨_, rfl, fun hr => absurd hr f.kind.code_ne_zero, h _ _⟩

section
variable (s : State)

/-- Which register numbers are listed does not depend on the state (R352). -/
theorem State.readReg_isSome (t : State) (number : Nat) : (s.readReg number).isSome = (t.readReg number).isSome := by
  unfold State.readReg
  split <;> simp only [Option.isSome_some, Option.isSome_none]

theorem answers_regRead (number : BitVec 8) : s.Answers (.regRead number) := by
  cases hreg : s.readReg number.toNat with
  | some v =>
    refine .value v 0 fun p => ?_
    have hreg' : ({ s with port := p } : State).readReg number.toNat = some v := hreg
    rw [exec, execRegRead, hreg']
  | none =>
    refine .error ⟨.configMisuse, unitOfOp 0x01, number.toNat⟩ fun e p => ?_
    have hreg' : ({ s with err := e, port := p } : State).readReg number.toNat = none := by
      rw [← Option.not_isSome_iff_eq_none, State.readReg_isSome _ s, hreg]
      simp
    rw [exec, execRegRead, hreg']
    rfl

theorem answers_swGet (offset : Word) : s.Answers (.swGet offset) := by
  by_cases hrefuses : s.swRefuses = true
  · exact .error _ fun e p => if_pos hrefuses
  · cases hget : s.sw.get offset.toNat with
    | none => exact .error (badDistance offset.toNat) fun e p => (if_neg hrefuses).trans (by rw [hget])
    | some b => exact .value b.toNat 0 fun p => (if_neg hrefuses).trans (by rw [hget])

theorem answers_hcEncode (slot : BitVec 4) (symbol : BitVec 9) : s.Answers (.hcEncode slot symbol) := by
  by_cases hrefuses : (s.hcRefuses slot.toNat || !(s.table slot.toNat).valid) = true
  · exact .error _ fun e p => if_pos hrefuses
  · by_cases hsymbol : (s.table slot.toNat).n ≤ symbol.toNat
    · exact .error _ fun e p => (if_neg hrefuses).trans (if_pos hsymbol)
    · let cl := (s.table slot.toNat).codeOf symbol.toNat
      exact .value cl.1 cl.2 fun p => (if_neg hrefuses).trans (if_neg hsymbol)

theorem answers_mfToken (index : Word) : s.Answers (.mfToken index) := by
  by_cases hrefuses : s.mfRefuses = true
  · exact .error _ fun e p => if_pos hrefuses
  · cases htoken : s.mf.tok[index.toNat]? with
    | none =>
      exact .error ⟨.configMisuse, unitOfOp 0x42, index.toNat⟩ fun e p => (if_neg hrefuses).trans (by rw [htoken]; rfl)
    | some w => exact .value w.toNat 0 fun p => (if_neg hrefuses).trans (by rw [htoken])

end

/-! ### The repeated peek (R153) -/

/-- A refill asks nothing more of the source when it is repeated (R148). -/
theorem Bc.need_need (n : Nat) (c : Bc) (src : List Byte) :
    Bc.need n (Bc.need n c src).1 (Bc.need n c src).2 = Bc.need n c src := by
  obtain ⟨k, -, hsrc, -, -, -, -, -, -, -, hend, -⟩ := Bc.need_spec n src c
  rcases hend with henough | hempty
  · exact Bc.need_enough _ henough
  · have hnil : (Bc.need n c src).2 = [] := by rw [hsrc, hempty, List.drop_length]
    rw [hnil, Bc.need, ← hnil]

/-- A command a reading channel accepts is accepted after a refill too (R140). -/
theorem State.accepts_refill {s : State} {mode : Mode} {count : Nat} (n : Nat) (h : ¬s.bcRefuses mode count = true) :
    ¬(s.setChannel (Bc.need n s.bc s.port.src)).bcRefuses mode count = true := by
  obtain ⟨k, -, -, -, -, -, hmode, -, hopened, -⟩ := Bc.need_spec n s.port.src s.bc
  simpa only [State.bcRefuses, State.bcClosed, State.sessionOpen, State.setChannel, State.setSrc, hmode, hopened] using h

/-- An accepted peek of a channel that a refill for its count would not change. -/
theorem execBcPeekBits_filled {s : State} {count : BitVec 6} (haccepts : ¬s.bcRefuses .read count.toNat = true)
    (hfilled : Bc.need count.toNat s.bc s.port.src = (s.bc, s.port.src)) :
    exec (.bcPeekBits count) s =
      if s.bc.nbits < count.toNat then (s.raiseDirect (endOfInput (count.toNat - s.bc.nbits))).finish
      else (s.ok (s.bc.peek params count.toNat).toNat 0).finish := by
  rw [exec, execBcPeekBits, if_neg haccepts, hfilled]
  rfl

/-- A peek is the peek of the channel that the refill leaves (R148, R153). -/
theorem execBcPeekBits_refill {s : State} {count : BitVec 6} (haccepts : ¬s.bcRefuses .read count.toNat = true) :
    exec (.bcPeekBits count) s = exec (.bcPeekBits count) (s.setChannel (Bc.need count.toNat s.bc s.port.src)) := by
  rw [execBcPeekBits_filled (State.accepts_refill _ haccepts) (Bc.need_need _ _ _), exec, execBcPeekBits, if_neg haccepts]

/-- A peek of a refilled channel answers the same again, the channel unchanged. -/
theorem bcPeekBits_repeats_filled {count : BitVec 6} {s t : State} (haccepts : ¬s.bcRefuses .read count.toNat = true)
    (hfilled : Bc.need count.toNat s.bc s.port.src = (s.bc, s.port.src)) (ht : exec (.bcPeekBits count) s = .next t) :
    t.bc = s.bc ∧ ∃ r, t.port.responses = s.port.responses ++ [r] ∧ exec (.bcPeekBits count) t = .next (t.respond r) := by
  rw [execBcPeekBits_filled haccepts hfilled] at ht
  split at ht
  all_goals
    rename_i hbits
    obtain ⟨hfit, rfl⟩ := State.finish_next.mp ht
    refine ⟨rfl, _, rfl, ?_⟩
    rw [execBcPeekBits_filled (by exact haccepts) (by exact hfilled)]
  · exact (if_pos hbits).trans (State.finish_of_fit hfit)
  · exact (if_neg hbits).trans (State.finish_of_fit hfit)

theorem bcPeekBits_repeats {count : BitVec 6} {s t : State} (ht : exec (.bcPeekBits count) s = .next t) :
    t.bc.total = s.bc.total ∧
      ∃ r, t.port.responses = s.port.responses ++ [r] ∧ exec (.bcPeekBits count) t = .next (t.respond r) := by
  by_cases hrefuses : s.bcRefuses .read count.toNat = true
  · cases ht.symm.trans (if_pos hrefuses)
    exact ⟨rfl, _, rfl, if_pos hrefuses⟩
  · rw [execBcPeekBits_refill hrefuses] at ht
    obtain ⟨hbc, hanswer⟩ := bcPeekBits_repeats_filled (State.accepts_refill _ hrefuses) (Bc.need_need _ _ _) ht
    exact ⟨(congrArg Bc.total hbc).trans (Bc.need_total _ _ _), hanswer⟩

/-- Settles O17: four of the commands only answer, and the peek is that of a channel already refilled. -/
theorem readsAreIdempotent : Obligations.ReadsAreIdempotent := by
  refine ⟨fun i s t hi ht => State.Answers.idempotent ?_ ht, fun count s t ht => bcPeekBits_repeats ht⟩
  rcases hi with ⟨offset, rfl⟩ | ⟨slot, symbol, rfl⟩ | ⟨index, rfl⟩ | ⟨number, rfl⟩
  · exact answers_swGet s offset
  · exact answers_hcEncode s slot symbol
  · exact answers_mfToken s index
  · exact answers_regRead s number

end Sys2Proof.Machine
end

section

namespace Sys2Proof.Machine

/-! ### A channel ready for a host command (R140) -/

section
variable {s : State} {mode : Mode}

theorem State.ChannelReady.bcClosed (h : s.ChannelReady mode) : s.bcClosed = false := by
  obtain ⟨hclosed, hopened, -⟩ := h
  simp [State.bcClosed, hclosed, hopened]

theorem State.ChannelReady.bcRefuses (h : s.ChannelReady mode) {count : Nat} (hcount : count ≤ 32) :
    s.bcRefuses mode count = false := by
  have hclosed := h.bcClosed
  obtain ⟨-, -, hmode, -⟩ := h
  simp [State.bcRefuses, hclosed, hmode, hcount]

/-- A command that moves only the channel and the ports ends well while the channel's two counters have room (U9). -/
theorem State.finish_channel {c : Bc} {p : Port} (hfit : s.countersFit = true) (htotal : c.total < 2 ^ 64)
    (hnbytes : c.nbytes < 2 ^ 64) :
    ({ s with bc := c, port := p } : State).finish = .next { s with bc := c, port := p } := by
  rw [State.countersFit_iff] at hfit
  obtain ⟨-, -, hrest⟩ := hfit
  exact State.finish_of_fit ((State.countersFit_iff _).mpr ⟨htotal, hnbytes, hrest⟩)

end

/-! ### Bytes and bits of a writing channel (R65 to R67, R145) -/

/-- `rev8` of R11 is the reversal of a byte's bits. -/
theorem rev8_eq_reverse : ∀ b : Byte, rev8 b = b.reverse := by decide

theorem Bc.ordered_eq_passes (c : Bc) (b : Byte) : c.ordered b = passes c.order b := by
  unfold Bc.ordered passes
  cases c.order with
  | lsbFirst => rfl
  | msbFirst => exact rev8_eq_reverse b

/-- `mask(n)` of R11 keeps a number modulo `2^n`. -/
theorem lowBits_toNat {n : Nat} (v : Word) (hn : n ≤ 32) : (lowBits n v).toNat = v.toNat % 2 ^ n := by
  have hpow : 2 ^ n ≤ 2 ^ 32 := Nat.pow_le_pow_right (by decide) hn
  have hpos := Nat.two_pow_pos n
  rw [lowBits, BitVec.toNat_and, BitVec.toNat_ofNat, Nat.mod_eq_of_lt (by omega), Nat.and_two_pow_sub_one_eq_mod]

/-- This hardware sends a value's bits as they are, in either order (R66, R67, D7). -/
theorem Bc.valueBits_params (c : Bc) (n : Nat) (x : Word) : c.valueBits params n x = x := by
  unfold Bc.valueBits
  cases c.order <;> rfl

/-- New bits above the pending ones add up with them. -/
theorem acc_join_toNat {acc : BitVec 64} {x : Word} {m n : Nat} (hacc : acc.toNat < 2 ^ m) (hx : x.toNat < 2 ^ n)
    (hmn : m + n ≤ 64) : (acc ||| (x.setWidth 64 <<< m)).toNat = acc.toNat + x.toNat * 2 ^ m := by
  have hfits : x.toNat * 2 ^ m < 2 ^ 64 := calc
    x.toNat * 2 ^ m < 2 ^ n * 2 ^ m := Nat.mul_lt_mul_of_pos_right hx (Nat.two_pow_pos m)
    _ = 2 ^ (m + n) := by rw [← pow_add, Nat.add_comm]
    _ ≤ 2 ^ 64 := Nat.pow_le_pow_right (by decide) hmn
  have hwidth : (x.setWidth 64).toNat = x.toNat := BitVec.toNat_setWidth_of_le (by decide)
  rw [BitVec.toNat_or, BitVec.toNat_shiftLeft, hwidth, Nat.shiftLeft_eq, Nat.mod_eq_of_lt hfits, Nat.or_comm,
    Nat.mul_comm, Nat.add_comm, Nat.two_pow_add_eq_or_of_lt hacc]

/-- The first half of a write (R145) as arithmetic. -/
theorem Bc.accept_acc {c : Bc} {n : Nat} (v : Word) (hacc : c.acc.toNat < 2 ^ c.nbits) (hnbits : c.nbits ≤ 32)
    (hn : n ≤ 32) : (c.accept params v n).acc.toNat = c.acc.toNat + v.toNat % 2 ^ n * 2 ^ c.nbits := by
  rw [Bc.accept, Bc.valueBits_params, acc_join_toNat hacc (lowBits_lt n v) (by omega), lowBits_toNat v hn]

theorem streamBytes_succ (o : Order) (k x : Nat) :
    streamBytes o (k + 1) x = passes o (BitVec.ofNat 8 x) :: streamBytes o k (x / 256) := by
  have hlow : BitVec.ofNat 8 (x % 256) = BitVec.ofNat 8 x := BitVec.eq_of_toNat_eq (by simp)
  simp [streamBytes, List.range_succ_eq_map, Function.comp_def, pow_succ', Nat.div_div_eq_div_mul, hlow]

/-- The bytes the loop of `bc_write` puts are those of the accumulator, lowest first (R145). -/
theorem Bc.emit_bytes : ∀ (k : Nat) (c : Bc), (Bc.emit k c).2 = streamBytes c.order k c.acc.toNat
  | 0, _ => rfl
  | k + 1, c => by
    have hlow : c.acc.setWidth 8 = BitVec.ofNat 8 c.acc.toNat := rfl
    have hnext : (c.acc >>> 8).toNat = c.acc.toNat / 256 := by
      rw [BitVec.toNat_ushiftRight, Nat.shiftRight_eq_div_pow]
    rw [Bc.emit, streamBytes_succ, Bc.emit_bytes k, Bc.ordered_eq_passes, hlow, hnext]

/-- The pending bits of a channel with the low `n` bits of `v` above them, as a number (R145). -/
def Bc.joined (c : Bc) (v : Word) (n : Nat) : Nat := c.acc.toNat + v.toNat % 2 ^ n * 2 ^ c.nbits

/-- What a write to a channel of this hardware does (R145). -/
theorem Bc.write_eq {c : Bc} {n : Nat} (v : Word) (hc : c.Wf) (hmode : c.mode = .write) (hn : n ≤ 32) :
    c.write params v n =
      ({ c with
          acc := BitVec.ofNat 64 (c.joined v n / 2 ^ (8 * ((c.nbits + n) / 8))), nbits := (c.nbits + n) % 8
          total := c.total + n, nbytes := c.nbytes + (c.nbits + n) / 8 },
        streamBytes c.order ((c.nbits + n) / 8) (c.joined v n)) := by
  obtain ⟨hacc, -, hwrite, -⟩ := hc
  obtain ⟨hnbits, -⟩ := hwrite hmode
  have hjoin : (c.accept params v n).acc.toNat = c.joined v n :=
    Bc.accept_acc v ((acc_shift_eq_zero _ _).mp hacc) (by omega) hn
  have hacc' : (c.write params v n).1.acc = BitVec.ofNat 64 (c.joined v n / 2 ^ (8 * ((c.nbits + n) / 8))) := by
    rw [Bc.write, Bc.emit_acc, ← hjoin, ← Nat.shiftRight_eq_div_pow, ← BitVec.toNat_ushiftRight, BitVec.ofNat_toNat,
      BitVec.setWidth_eq]
  have hbytes : (c.write params v n).2 = streamBytes c.order ((c.nbits + n) / 8) (c.joined v n) := by
    rw [← hjoin]
    exact Bc.emit_bytes _ _
  obtain ⟨-, hnbits', hnbytes', htotal', hmode', horder', hopened', hflushed'⟩ := Bc.write_spec params c v n
  generalize c.write params v n = r at *
  obtain ⟨⟨⟩, bytes⟩ := r
  dsimp only at *
  subst_vars
  rfl

/-- A writing channel holds less than a byte, as much as its total is past a byte (R25 (c)). -/
theorem Bc.Wf.pending {c : Bc} (hc : c.Wf) (hmode : c.mode = .write) : c.nbits < 8 ∧ c.total % 8 = c.nbits := by
  obtain ⟨-, -, hwrite, -⟩ := hc
  obtain ⟨hnbits, htotal, -⟩ := hwrite hmode
  exact ⟨hnbits, htotal⟩

/-- Settles O25, by the arithmetic of the write (`Bc.write_eq`). -/
theorem bcWriteBitsResult : Obligations.BcWriteBitsResult := by
  intro value count s hready hflushed hcount hroom hfit n bits
  have hrefuses : ¬(s.bcRefuses .write count.toNat || s.bc.flushed) = true := by
    simp [hready.bcRefuses hcount, hflushed]
  obtain ⟨-, -, hmode, hwf⟩ := hready
  obtain ⟨htotal, hnbytes⟩ := hroom
  obtain ⟨hnbits, -⟩ := hwf.pending hmode
  rw [exec, execBcWriteBits, if_neg hrefuses, Bc.write_eq value hwf hmode hcount]
  exact State.finish_channel (s := s) hfit (show s.bc.total + count.toNat < 2 ^ 64 by omega)
    (show s.bc.nbytes + (s.bc.nbits + count.toNat) / 8 < 2 ^ 64 by omega)

/-! ### Alignment (R155 to R157) -/

/-- The channel once the rest of its byte is padded with zeros and put (R156). -/
def Bc.padded (c : Bc) : Bc :=
  { c with
    acc := 0, nbits := 0, total := c.total + (8 - c.total % 8) % 8, nbytes := c.nbytes + (c.nbits + 7) / 8 }

/-- The byte the pending bits make, none if there are none (R156). -/
def Bc.lastBytes (c : Bc) : List Byte := streamBytes c.order ((c.nbits + 7) / 8) c.acc.toNat

theorem Bc.padding_eq {c : Bc} (hc : c.Wf) (hmode : c.mode = .write) : c.padding = (8 - c.total % 8) % 8 := by
  rw [Bc.padding, (hc.pending hmode).2]

theorem Bc.alignWrite_eq {c : Bc} (hc : c.Wf) (hmode : c.mode = .write) :
    c.alignWrite params = (c.padded, c.lastBytes) := by
  obtain ⟨hnbits, -⟩ := hc.pending hmode
  have hpending : c.acc.toNat < 2 ^ c.nbits := (acc_shift_eq_zero _ _).mp hc.left
  have hpadding : c.padding = (8 - c.nbits) % 8 := rfl
  have hfull : (c.nbits + c.padding) / 8 = (c.nbits + 7) / 8 := by omega
  have hempty : (c.nbits + c.padding) % 8 = 0 := by omega
  have hjoined : c.joined 0 c.padding = c.acc.toNat := by simp [Bc.joined]
  have hacc : c.acc.toNat / 2 ^ (8 * ((c.nbits + 7) / 8)) = 0 :=
    Nat.div_eq_of_lt (Nat.lt_of_lt_of_le hpending (Nat.pow_le_pow_right (by decide) (by omega)))
  rw [Bc.alignWrite, Bc.write_eq 0 hc hmode (by omega), hfull, hempty, hjoined, hacc, Bc.padding_eq hc hmode]
  rfl

theorem Bc.partialBits_eq {c : Bc} (hc : c.Wf) (hmode : c.mode = .read) : c.partialBits = (8 - c.total % 8) % 8 := by
  obtain ⟨-, -, -, hread⟩ := hc
  obtain ⟨hbyte, -⟩ := hread hmode
  rw [Bc.partialBits]
  omega

/-- Settles O29: a write of zeros, or a skip, of as many bits as complete the byte. -/
theorem bcAlignResult : Obligations.BcAlignResult := by
  intro s hroom hfit k m
  obtain ⟨htotal, hnbytes⟩ := hroom
  have hk : s.bc.total + k < 2 ^ 64 := by omega
  refine ⟨fun hready hflushed => ?_, fun hready => ?_⟩
  all_goals
    have hclosed : ¬s.bcClosed = true := by simp [hready.bcClosed]
    obtain ⟨-, -, hmode, hwf⟩ := hready
    rw [exec, execBcAlign, if_neg hclosed, hmode]
    dsimp only
  · obtain ⟨hnbits, -⟩ := hwf.pending hmode
    rw [if_neg (by simp [hflushed]), Bc.alignWrite_eq hwf hmode, Bc.padding_eq hwf hmode]
    exact State.finish_channel (s := s) hfit hk (show s.bc.nbytes + m < 2 ^ 64 by omega)
  · rw [Bc.alignRead, Bc.partialBits_eq hwf hmode]
    exact State.finish_channel (s := s) hfit hk (show s.bc.nbytes < 2 ^ 64 by omega)

/-! ### Flush and close (R160 to R163) -/

theorem State.bcFlush_eq {s : State} (hc : s.bc.Wf) (hmode : s.bc.mode = .write) :
    s.bcFlush params =
      { s with
        bc := { s.bc.padded with flushed := true }
        port := { s.port with
          sink := s.port.sink ++ s.bc.lastBytes, committed := (s.port.sink ++ s.bc.lastBytes).length
          flushes := s.port.flushes + 1 } } := by
  rw [State.bcFlush, Bc.alignWrite_eq hc hmode]
  rfl

/-- Settles O30, by the flush's effect (`State.bcFlush_eq`). -/
theorem bcFlushAndCloseResult : Obligations.BcFlushAndCloseResult := by
  intro s hroom hfit k m sink port bc
  obtain ⟨htotal, hnbytes⟩ := hroom
  have htotal' : s.bc.total < 2 ^ 64 := by omega
  have hnbytes' : s.bc.nbytes < 2 ^ 64 := by omega
  refine ⟨fun hready => ?_, fun hready => ?_⟩
  all_goals
    have hclosed : ¬s.bcClosed = true := by simp [hready.bcClosed]
  · have hrefuses : ¬s.bcRefuses .write 0 = true := by simp [hready.bcRefuses]
    obtain ⟨-, -, hmode, hwf⟩ := hready
    obtain ⟨hnbits, -⟩ := hwf.pending hmode
    have hk : s.bc.total + k < 2 ^ 64 := by omega
    have hm : s.bc.nbytes + m < 2 ^ 64 := by omega
    refine ⟨?_, fun hflushed => ?_, fun hflushed => ?_⟩
    · rw [exec, execBcFlush, if_neg hrefuses, State.bcFlush_eq hwf hmode, Bc.padding_eq hwf hmode]
      exact State.finish_channel (s := s) hfit hk hm
    · rw [exec, execBcClose, if_neg hclosed, if_pos (by simp [hmode, hflushed]), State.bcFlush_eq hwf hmode]
      exact State.finish_channel (s := s) hfit hk hm
    · rw [exec, execBcClose, if_neg hclosed, if_neg (by simp [hflushed])]
      exact State.finish_channel (s := s) hfit htotal' hnbytes'
  · obtain ⟨-, -, hmode, -⟩ := hready
    rw [exec, execBcClose, if_neg hclosed, if_neg (by simp [hmode])]
    exact State.finish_channel (s := s) hfit htotal' hnbytes'

end Sys2Proof.Machine
end

section

namespace Sys2Proof.Machine

/-! ### Bit reversal (R11, R104) -/

theorem revBits_testBit : ∀ n v i : Nat, (revBits n v).testBit i = (decide (i < n) && v.testBit (n - 1 - i))
  | 0, v, i => by simp [revBits]
  | n + 1, v, i => by
    rcases Nat.lt_or_ge i (n + 1) with hi | hi
    · have ih := revBits_testBit n (v / 2) i
      rw [revBits, Nat.mul_comm, Nat.two_pow_add_eq_or_of_lt (revBits_lt n _), Nat.testBit_or, ih,
        Nat.testBit_two_pow_mul, Nat.testBit_div_two]
      rcases Nat.lt_or_eq_of_le (Nat.le_of_lt_succ hi) with hi' | rfl
      · simp [hi, hi', show ¬n ≤ i by omega, show n - 1 - i + 1 = n - i by omega]
      · simp [Nat.testBit_zero]
    · have hlt := Nat.lt_of_lt_of_le (revBits_lt (n + 1) v) (Nat.pow_le_pow_right (by decide) hi)
      simp [Nat.testBit_lt_two_pow hlt, show ¬i < n + 1 by omega]

/-- The field of a code is the code, reversed (R104). -/
theorem codeField_eq_revBits (l c : Nat) : codeField l c = revBits l c := by
  refine Nat.eq_of_testBit_eq fun i => ?_
  rw [revBits_testBit, codeField, BitVec.testBit_toNat, BitVec.getLsbD_reverse, BitVec.getMsbD_eq_getLsbD,
    BitVec.getLsbD_ofNat]
  by_cases hi : i < l
  · simp [show l - 1 - i < l by omega]
  · simp [hi]

/-- Where the next `l` bits are a code's, the next `m`, the first of them most significant, are its upper `m` bits. -/
theorem revBits_of_codeField {l m c x : Nat} (hml : m ≤ l) (hc : c < 2 ^ l) (hx : x % 2 ^ l = codeField l c) :
    revBits m (x % 2 ^ m) = c / 2 ^ (l - m) := by
  refine Nat.eq_of_testBit_eq fun i => ?_
  rw [revBits_testBit, Nat.testBit_div_two_pow, Nat.testBit_mod_two_pow]
  by_cases hi : i < m
  · have hbit := congrArg (Nat.testBit · (m - 1 - i)) hx
    simp only [codeField_eq_revBits, revBits_testBit, Nat.testBit_mod_two_pow, show m - 1 - i < l by omega, decide_true,
      Bool.true_and] at hbit
    rw [hbit, show l - 1 - (m - 1 - i) = i + (l - m) by omega]
    simp [hi, show m - 1 - i < m by omega]
  · have hhigh : c.testBit (i + (l - m)) = false :=
      Nat.testBit_lt_two_pow (Nat.lt_of_lt_of_le hc (Nat.pow_le_pow_right (by decide) (by omega)))
    simp [hi, hhigh]

/-! ### What a refill takes (R148) -/

/-- The bits a channel and a source can still supply (R65); `State.upcoming` is those of the state's own. -/
def Bc.upcoming (c : Bc) (src : List Byte) : Nat := c.acc.toNat + 2 ^ c.nbits * streamValue c.order src

/-- The channel and the source once a field of `n` bits is at hand; `State.afterFetch` is the state with these. -/
def Bc.fetched (n : Nat) (c : Bc) (src : List Byte) : Bc × List Byte :=
  ({ c with
      acc := BitVec.ofNat 64 (c.upcoming (src.take (c.fetches n))), nbits := c.nbits + 8 * c.fetches n
      nbytes := c.nbytes + c.fetches n },
    src.drop (c.fetches n))

theorem State.upcoming_eq (s : State) : s.upcoming = s.bc.upcoming s.port.src := rfl

/-- The accumulator after a byte was taken, as a number. -/
theorem Bc.takeByte_acc {c : Bc} (b : Byte) (hacc : c.acc.toNat < 2 ^ c.nbits) (hnbits : c.nbits ≤ 56) :
    (c.takeByte b).acc.toNat = c.acc.toNat + 2 ^ c.nbits * (passes c.order b).toNat := by
  have hword : (c.ordered b).setWidth 64 = ((c.ordered b).setWidth 32).setWidth 64 :=
    BitVec.eq_of_toNat_eq (by simp)
  have hbyte : ((c.ordered b).setWidth 32).toNat = (passes c.order b).toNat := by
    rw [BitVec.toNat_setWidth_of_le (by decide), Bc.ordered_eq_passes]
  rw [Bc.takeByte, hword, acc_join_toNat (n := 8) hacc (hbyte ▸ BitVec.isLt _) (by omega), hbyte, Nat.mul_comm]

/-- A byte taken from the source is still to come. -/
theorem Bc.upcoming_takeByte {c : Bc} (b : Byte) (src : List Byte) (hacc : c.acc.toNat < 2 ^ c.nbits)
    (hnbits : c.nbits ≤ 56) : (c.takeByte b).upcoming src = c.upcoming (b :: src) := by
  rw [Bc.upcoming, Bc.takeByte_acc b hacc hnbits, Bc.upcoming, streamValue]
  simp only [Bc.takeByte, pow_add]
  ring

theorem Bc.fetches_takeByte {c : Bc} {n : Nat} (b : Byte) (h : c.nbits < n) :
    c.fetches n = (c.takeByte b).fetches n + 1 := by
  simp only [Bc.fetches, Bc.takeByte]
  omega

/-- The refill's loop is `Bc.fetched` (R148). -/
theorem Bc.need_eq_fetched {n : Nat} (hn : n ≤ 32) : ∀ (src : List Byte) (c : Bc), c.Wf → c.mode = .read →
    n ≤ c.nbits + 8 * src.length → Bc.need n c src = Bc.fetched n c src
  | src, c, hwf, hmode, havail => by
    by_cases henough : n ≤ c.nbits
    · have hnone : c.fetches n = 0 := by simp only [Bc.fetches]; omega
      rw [Bc.need_enough src henough, Bc.fetched, hnone]
      simp [Bc.upcoming, streamValue]
    · obtain ⟨hacc, -, -⟩ := (Bc.wf_read_iff hmode).mp hwf
      match src with
      | [] => simp only [List.length_nil] at havail; omega
      | b :: rest =>
        rw [Bc.need, if_pos (by omega), Bc.need_eq_fetched hn rest _ (Bc.wf_takeByte b hwf hmode (by omega)) hmode
          (by simp only [Bc.takeByte, List.length_cons] at havail ⊢; omega)]
        simp only [Bc.fetched, Bc.fetches_takeByte b (Nat.not_le.mp henough), List.take_succ_cons, List.drop_succ_cons,
          Bc.upcoming_takeByte b _ hacc (show c.nbits ≤ 56 by omega)]
        simp only [Bc.takeByte, Prod.mk.injEq, Bc.mk.injEq, true_and, and_true]
        omega

/-- A refill takes no bit away: what is still to come stays (R148). -/
theorem Bc.upcoming_need {n : Nat} (hn : n ≤ 32) : ∀ (src : List Byte) (c : Bc), c.Wf → c.mode = .read →
    (Bc.need n c src).1.upcoming (Bc.need n c src).2 = c.upcoming src
  | [], _, _, _ => rfl
  | b :: rest, c, hwf, hmode => by
    obtain ⟨hacc, -, hnbits⟩ := (Bc.wf_read_iff hmode).mp hwf
    rw [Bc.need]
    split
    · rw [Bc.upcoming_need hn rest _ (Bc.wf_takeByte b hwf hmode (by omega)) hmode,
        Bc.upcoming_takeByte b rest hacc (by omega)]
    · rfl

/-- A refill takes no bit away: as many are to come as before (R148). -/
theorem Bc.need_available (n : Nat) (c : Bc) (src : List Byte) :
    (Bc.need n c src).1.nbits + 8 * (Bc.need n c src).2.length = c.nbits + 8 * src.length := by
  obtain ⟨k, hk, hsrc, hnbits, -⟩ := Bc.need_spec n src c
  rw [hsrc, hnbits, List.length_drop]
  omega

/-- A refill for few bits before one for more changes nothing (R148). -/
theorem Bc.need_need_of_le {m n : Nat} (h : m ≤ n) : ∀ (src : List Byte) (c : Bc),
    Bc.need n (Bc.need m c src).1 (Bc.need m c src).2 = Bc.need n c src
  | [], _ => rfl
  | b :: rest, c => by
    by_cases hm : c.nbits < m
    · simp only [Bc.need, if_pos hm, if_pos (Nat.lt_of_lt_of_le hm h)]
      exact Bc.need_need_of_le h rest _
    · rw [Bc.need_enough _ (Nat.not_lt.mp hm)]

/-- The value of a peek is the next bits (R147). -/
theorem Bc.peek_eq_upcoming {c : Bc} {n : Nat} (src : List Byte) (hn : n ≤ 32) (henough : n ≤ c.nbits) :
    (c.peek params n).toNat = c.upcoming src % 2 ^ n := by
  have hpos := Nat.two_pow_pos n
  have hmask : (BitVec.ofNat 64 (2 ^ n - 1)).toNat = 2 ^ n - 1 :=
    (BitVec.toNat_ofNat _ _).trans (Nat.mod_eq_of_lt (by
      have : 2 ^ n ≤ 2 ^ 32 := Nat.pow_le_pow_right (by decide) hn
      omega))
  have hlow : (lowBits n c.acc).toNat = c.acc.toNat % 2 ^ n := by
    rw [lowBits, BitVec.toNat_and, hmask, Nat.and_two_pow_sub_one_eq_mod]
  have hshort : c.acc.toNat % 2 ^ n < 2 ^ 32 :=
    Nat.lt_of_lt_of_le (Nat.mod_lt _ hpos) (Nat.pow_le_pow_right (by decide) hn)
  have hmultiple : 2 ^ c.nbits = 2 ^ n * 2 ^ (c.nbits - n) := by rw [← pow_add, Nat.add_sub_cancel' henough]
  rw [Bc.peek, Bc.valueBits_params, BitVec.toNat_setWidth, hlow, Nat.mod_eq_of_lt hshort, Bc.upcoming, hmultiple,
    Nat.mul_assoc, Nat.add_mul_mod_self_left]

theorem streamValue_lt (o : Order) : ∀ bytes : List Byte, streamValue o bytes < 2 ^ (8 * bytes.length)
  | [] => Nat.one_pos
  | b :: rest => by
    have ih := streamValue_lt o rest
    have hb := (passes o b).isLt
    rw [streamValue, List.length_cons, Nat.mul_succ, pow_add]
    omega

/-- As many bits are to come as are pending and at the source. -/
theorem Bc.upcoming_lt {c : Bc} (src : List Byte) (hacc : c.acc.toNat < 2 ^ c.nbits) :
    c.upcoming src < 2 ^ (c.nbits + 8 * src.length) := by
  have hsrc := streamValue_lt c.order src
  calc c.upcoming src < 2 ^ c.nbits * (streamValue c.order src + 1) := by rw [Bc.upcoming, Nat.mul_succ]; omega
    _ ≤ 2 ^ c.nbits * 2 ^ (8 * src.length) := Nat.mul_le_mul_left _ hsrc
    _ = 2 ^ (c.nbits + 8 * src.length) := (pow_add ..).symm

theorem ofNat_shiftRight {x : Nat} (n : Nat) (hx : x < 2 ^ 64) :
    BitVec.ofNat 64 x >>> n = BitVec.ofNat 64 (x / 2 ^ n) := by
  apply BitVec.eq_of_toNat_eq
  rw [BitVec.toNat_ushiftRight, BitVec.toNat_ofNat, BitVec.toNat_ofNat, Nat.shiftRight_eq_div_pow, Nat.mod_eq_of_lt hx,
    Nat.mod_eq_of_lt (Nat.lt_of_le_of_lt (Nat.div_le_self _ _) hx)]

/-- The channel once a field of `n` bits has been read (R147). -/
def Bc.consumed (n : Nat) (c : Bc) (src : List Byte) : Bc :=
  { c with
    acc := BitVec.ofNat 64 (c.upcoming (src.take (c.fetches n)) / 2 ^ n), nbits := c.nbits + 8 * c.fetches n - n
    total := c.total + n, nbytes := c.nbytes + c.fetches n }

theorem Bc.fetched_skip {c : Bc} {n : Nat} (src : List Byte) (hacc : c.acc.toNat < 2 ^ c.nbits)
    (hbits : c.nbits + 8 * c.fetches n ≤ 64) : (Bc.fetched n c src).1.skip n = Bc.consumed n c src := by
  have hlen : (src.take (c.fetches n)).length ≤ c.fetches n := List.length_take_le _ _
  have hlt : c.upcoming (src.take (c.fetches n)) < 2 ^ 64 :=
    Nat.lt_of_lt_of_le (Bc.upcoming_lt _ hacc) (Nat.pow_le_pow_right (by decide) (by omega))
  rw [Bc.consumed, ← ofNat_shiftRight n hlt]
  rfl

end Sys2Proof.Machine
end

section

namespace Sys2Proof.Machine

/-! ### Where a canonical code stands (R208, R214) -/

theorem mem_len_split {len : List Nat} {s l : Nat} (hs : s < len.length) (hl : len.getD s 0 = l) :
    ∃ pre suf, len = pre ++ l :: suf ∧ pre.length = s := by
  refine ⟨len.take s, len.drop (s + 1), ?_, by simp; omega⟩
  rw [List.getD_eq_getElem _ _ hs] at hl
  rw [← hl, List.getElem_cons_drop, List.take_append_drop]

theorem nthOfLen_split (l : Nat) (suf : List Nat) : ∀ (pre : List Nat) (s : Nat),
    nthOfLen (pre ++ l :: suf) l (pre.count l) s = some (s + pre.length)
  | [], s => by simp [nthOfLen]
  | x :: pre, s => by
    have ih := nthOfLen_split l suf pre (s + 1)
    by_cases hx : x = l
    · subst hx
      simp [nthOfLen, ih, Nat.add_comm, Nat.add_left_comm]
    · simp [nthOfLen, hx, ih, Nat.add_comm, Nat.add_left_comm]

/-- The codes of at most `l` bits take no more of the code space than the Kraft sum (R193). -/
theorem atMostCodes_le_kraftSum {l limit : Nat} (hl : l ≤ limit) : ∀ len : List Nat,
    (len.map fun x => if x ≠ 0 ∧ x ≤ l then 2 ^ (l - x) else 0).sum * 2 ^ (limit - l) ≤ kraftSum limit len
  | [] => by simp
  | x :: len => by
    have ih := atMostCodes_le_kraftSum hl len
    have hx : (if x ≠ 0 ∧ x ≤ l then 2 ^ (l - x) else 0) * 2 ^ (limit - l) ≤
        if x = 0 then 0 else 2 ^ (limit - x) := by
      split
      · rename_i h
        rw [if_neg h.1, ← pow_add, show l - x + (limit - l) = limit - x by omega]
      · simp
    rw [List.map_cons, List.sum_cons, Nat.add_mul, kraftSum_cons]
    exact Nat.add_le_add hx ih

/-- The codes of length `l` fit in `l` bits (R209). -/
theorem codes_fit {l limit : Nat} {len : List Nat} (h0 : l ≠ 0) (hl : l ≤ limit) (hk : kraftSum limit len = 2 ^ limit) :
    shorterCodes len l + len.count l ≤ 2 ^ l := by
  have hle := atMostCodes_le_kraftSum hl len
  have hpow : 2 ^ limit = 2 ^ l * 2 ^ (limit - l) := by rw [← pow_add, Nat.add_sub_cancel' hl]
  rw [atMostCodes_eq h0, hk, hpow] at hle
  exact Nat.le_of_mul_le_mul_right hle (Nat.two_pow_pos _)

/-- The codes of length `l` come after every extension of the codes of a smaller length `m`: no code is a prefix of
another (R209). -/
theorem shorterCodes_after {len : List Nat} {m l : Nat} (h0 : m ≠ 0) (hml : m < l) :
    (shorterCodes len m + len.count m) * 2 ^ (l - m) ≤ shorterCodes len l := by
  induction l, hml using Nat.le_induction with
  | base => rw [shorterCodes_succ, if_neg h0, lenCount, Nat.succ_sub (Nat.le_refl m), Nat.sub_self, pow_one]
  | succ l hml ih =>
    rw [shorterCodes_succ, show l + 1 - m = l - m + 1 by omega, pow_succ, ← Nat.mul_assoc]
    exact Nat.mul_le_mul_right 2 (Nat.le_trans ih (Nat.le_add_right _ _))

theorem firstCode_eq {len : List Nat} {l : Nat} (hl : l ≤ 15) : firstCode len l = shorterCodes len l :=
  firstCodes_getD len (Nat.lt_succ_of_le hl)

/-- The test of R214 at length `l`. -/
theorem Table.symbolAt_eq (t : Table) {l : Nat} (hl : l ≤ 15) (c : Nat) :
    t.symbolAt l c = if shorterCodes t.len l ≤ c ∧ c < shorterCodes t.len l + t.len.count l then
      nthOfLen t.len l (c - shorterCodes t.len l) 0 else none := by
  rw [Table.symbolAt, firstCode_eq hl]
  simp only [Bool.and_eq_true, decide_eq_true_eq]
  exact if_congr (by rw [lenCount]; omega) rfl rfl

section
variable {t : Table} {symbol l : Nat}

/-- The code of a used symbol: its place among the codes of its length (R208). -/
theorem Table.code_bounds (hs : symbol < t.len.length) (hl : t.len.getD symbol 0 = l) (h0 : l ≠ 0) :
    shorterCodes t.len l ≤ canonicalCode t.len symbol ∧
      canonicalCode t.len symbol < shorterCodes t.len l + t.len.count l ∧
      nthOfLen t.len l (canonicalCode t.len symbol - shorterCodes t.len l) 0 = some symbol := by
  obtain ⟨pre, suf, hlen, rfl⟩ := mem_len_split hs hl
  have hnth := nthOfLen_split l suf pre 0
  rw [hlen, canonicalCode_split pre suf h0, Nat.add_sub_cancel_left, hnth, Nat.zero_add]
  simp

/-- At its own length the test of R214 finds a used symbol's code. -/
theorem Table.symbolAt_code (hs : symbol < t.len.length) (hl : t.len.getD symbol 0 = l) (h0 : l ≠ 0) (h15 : l ≤ 15) :
    t.symbolAt l (canonicalCode t.len symbol) = some symbol := by
  obtain ⟨hlo, hhi, hnth⟩ := Table.code_bounds hs hl h0
  rw [t.symbolAt_eq h15, if_pos ⟨hlo, hhi⟩, hnth]

/-- At a smaller length the test of R214 finds nothing in the first bits of a code (R209). -/
theorem Table.symbolAt_prefix {m : Nat} (hs : symbol < t.len.length) (hl : t.len.getD symbol 0 = l) (h0 : m ≠ 0)
    (hml : m < l) (h15 : l ≤ 15) : t.symbolAt m (canonicalCode t.len symbol / 2 ^ (l - m)) = none := by
  obtain ⟨hlo, -, -⟩ := Table.code_bounds hs hl (by omega)
  have hafter : shorterCodes t.len m + t.len.count m ≤ canonicalCode t.len symbol / 2 ^ (l - m) :=
    (Nat.le_div_iff_mul_le (Nat.two_pow_pos _)).mpr (Nat.le_trans (shorterCodes_after h0 hml) hlo)
  rw [t.symbolAt_eq (by omega), if_neg (by omega)]

end

end Sys2Proof.Machine
end

section

namespace Sys2Proof.Machine

/-! ### The look-up (R214, R221) -/

/-- A look-up from length `m` on finds the symbol the test answers at length `l`, if it answers none before. -/
theorem Table.lookupFrom_found {t : Table} {symbol l : Nat} (h15 : l ≤ 15) : ∀ (k m : Nat) (c : Bc) (src : List Byte),
    m ≤ l → l < m + k → c.Wf → c.mode = .read → l ≤ c.nbits + 8 * src.length →
    (∀ i, m ≤ i → i < l → t.symbolAt i (revBits i (c.upcoming src % 2 ^ i)) = none) →
    t.symbolAt l (revBits l (c.upcoming src % 2 ^ l)) = some symbol →
    t.lookupFrom params k m c src = (Bc.need l c src, .found symbol l)
  | 0, _, _, _, _, _, _, _, _, _, _ => by omega
  | k + 1, m, c, src, hm, hk, hwf, hmode, havail, hbefore, hat => by
    have hm32 : m ≤ 32 := by omega
    have henough : m ≤ (Bc.need m c src).1.nbits := Bc.need_suffices (by omega)
    have hnext := Bc.upcoming_need hm32 src c hwf hmode
    rw [Table.lookupFrom]
    rw [if_neg (Nat.not_lt.mpr henough), Bc.peek_eq_upcoming (Bc.need m c src).2 hm32 henough, hnext]
    rcases Nat.lt_or_eq_of_le hm with hlt | rfl
    · rw [hbefore m (Nat.le_refl m) hlt]
      rw [Table.lookupFrom_found h15 k (m + 1) _ _ hlt (by omega) (Bc.wf_need hm32 src hwf hmode)
        ((Bc.reads_need hm32 c src).mode.trans hmode) (by rwa [Bc.need_available])
        (by rw [hnext]; exact fun i hi => hbefore i (by omega)) (by rwa [hnext]), Bc.need_need_of_le hm]
    · rw [hat]

/-- Over a complete table the look-up finds the symbol whose code comes next (R104, R214). -/
theorem Table.lookup_code {t : Table} {symbol l : Nat} {c : Bc} {src : List Byte} (hvalid : t.valid = true) (hwf : t.Wf)
    (hcomplete : t.Complete) (hs : symbol < t.n) (hl : t.len.getD symbol 0 = l) (h0 : l ≠ 0) (hc : c.Wf)
    (hmode : c.mode = .read) (havail : l ≤ c.nbits + 8 * src.length)
    (hnext : c.upcoming src % 2 ^ l = codeField l (t.code.getD symbol 0)) :
    l ≤ 15 ∧ t.lookup params c src = (Bc.need l c src, .found symbol l) := by
  obtain ⟨hn, -, -, hlimit, -, hmaxlen, -⟩ := hwf hvalid
  obtain ⟨-, hlens, hkraft, hcodes⟩ := hcomplete
  rw [hn] at hs
  have hmem : l ∈ t.len := by
    rw [← hl, List.getD_eq_getElem _ _ hs]
    exact List.getElem_mem hs
  have hcode : t.code.getD symbol 0 = canonicalCode t.len symbol := by
    rw [hcodes]
    simp [hs]
  have hle := hlens l hmem
  have h15 : l ≤ 15 := by omega
  have hmax : l ≤ t.maxlen := hmaxlen ▸ (maxLen_le_iff _ _).mp (Nat.le_refl _) l hmem
  have hfits : canonicalCode t.len symbol < 2 ^ l :=
    Nat.lt_of_lt_of_le (Table.code_bounds hs hl h0).2.1 (codes_fit h0 hle hkraft)
  rw [hcode] at hnext
  refine ⟨h15, Table.lookupFrom_found h15 _ _ _ _ (by omega) (by omega) hc hmode havail (fun i hi hil => ?_) ?_⟩
  · rw [revBits_of_codeField (Nat.le_of_lt hil) hfits hnext]
    exact Table.symbolAt_prefix hs hl (by omega) hil h15
  · rw [revBits_of_codeField (Nat.le_refl l) hfits hnext, Nat.sub_self, pow_zero, Nat.div_one]
    exact Table.symbolAt_code hs hl h0 h15

/-- Settles O43: the look-up finds the symbol (`Table.lookup_code`), and the refills of its lengths are one refill. -/
theorem hcDecodeInvertsEncode : Obligations.HcDecodeInvertsEncode := by
  intro slot symbol s hslot hready hroom hfit hvalid hwf hcomplete hsymbol l h0 havail hnext k bits
  obtain ⟨hclosed, hopened, hmode, hchannel⟩ := hready
  obtain ⟨hacc, -, hnbits⟩ := (Bc.wf_read_iff hmode).mp hchannel
  obtain ⟨htotal, hnbytes⟩ := hroom
  have hrefuses : ¬(s.hcRefuses slot.toNat || !(s.table slot.toNat).valid || !s.bc.opened ||
      s.bc.mode != .read) = true := by
    simp [State.hcRefuses, hclosed, hslot, hvalid, hopened, hmode]
  rw [State.upcoming_eq] at hnext
  obtain ⟨h15, hlookup⟩ := Table.lookup_code hvalid hwf hcomplete hsymbol rfl h0 hchannel hmode havail hnext
  rw [Bc.need_eq_fetched (by omega) _ _ hchannel hmode havail] at hlookup
  have hk : k = (l - s.bc.nbits + 7) / 8 := rfl
  rw [exec, execHcDecode, if_neg hrefuses, hlookup]
  dsimp only [State.setChannel, State.ok]
  rw [BitVec.ofNat_toNat, Bc.fetched_skip _ hacc (show s.bc.nbits + 8 * k ≤ 64 by omega)]
  exact State.finish_channel (s := s) (c := Bc.consumed l s.bc s.port.src) hfit (show s.bc.total + l < 2 ^ 64 by omega)
    (show s.bc.nbytes + k < 2 ^ 64 by omega)

end Sys2Proof.Machine
end

section

namespace Sys2Proof.Machine

/-! ### The command word and its fields (R91) -/

theorem operandA_commandWord (op : BitVec 8) (a b : Word) : operandA (commandWord op a b) = a :=
  (BitVec.extractLsb'_append_eq_of_le (Nat.le_refl 32)).trans BitVec.extractLsb'_append_eq_right

theorem operandB_commandWord (op : BitVec 8) (a b : Word) : operandB (commandWord op a b) = b :=
  BitVec.extractLsb'_append_eq_right

/-- A command word is its three parts (R91). -/
theorem commandWord_parts (w : BitVec 72) : commandWord (opOf w) (operandA w) (operandB w) = w := by
  rw [commandWord, opOf, operandA, BitVec.extractLsb'_append_extractLsb'_eq_extractLsb' (show 64 = 32 + 32 from rfl),
    operandB, BitVec.extractLsb'_append_extractLsb'_eq_extractLsb' (show 32 = 0 + 32 from rfl)]
  exact BitVec.extractLsb'_eq_self

theorem commandWord_and (op op' : BitVec 8) (a a' b b' : Word) :
    commandWord op a b &&& commandWord op' a' b' = commandWord (op &&& op') (a &&& a') (b &&& b') := by
  rw [commandWord, commandWord, commandWord, BitVec.and_append, BitVec.and_append]

/-! ### Operand fields (R92)

The lemmas `…_read` say that a field written into an operand reads back, the lemmas `…_masked` that the fields read from
an operand, written back, are the operand under the mask of the bits they use. -/

/-- A field at bit 0 of an operand reads back what was written there. -/
@[simp] theorem extractLsb'_setWidth_word {n : Nat} (x : BitVec n) (h : n ≤ 32) :
    (x.setWidth 32).extractLsb' 0 n = x := by
  rw [BitVec.extractLsb'_setWidth_of_le (by omega), BitVec.extractLsb'_eq_self]

@[simp] theorem modeOfBit_bit (m : Mode) : modeOfBit m.bit = m := by cases m <;> rfl
@[simp] theorem orderOfBit_bit (o : Order) : orderOfBit o.bit = o := by cases o <;> rfl
@[simp] theorem directionOfBit_bit (d : Direction) : directionOfBit d.bit = d := by cases d <;> rfl
@[simp] theorem bit_modeOfBit (b : Bool) : (modeOfBit b).bit = b := by cases b <;> rfl
@[simp] theorem bit_orderOfBit (b : Bool) : (orderOfBit b).bit = b := by cases b <;> rfl
@[simp] theorem bit_directionOfBit (b : Bool) : (directionOfBit b).bit = b := by cases b <;> rfl

/-- The two bits of `BC_INIT`. -/
theorem initBits_read (mode order : Bool) :
    ((BitVec.ofBool order ++ BitVec.ofBool mode : BitVec 2).setWidth 32).getLsbD 0 = mode ∧
      ((BitVec.ofBool order ++ BitVec.ofBool mode : BitVec 2).setWidth 32).getLsbD 1 = order := by
  cases mode <;> cases order <;> decide

/-- The slot and the count of a construction. -/
theorem buildFields_read (slot : BitVec 4) (n : BitVec 9) :
    ((n ++ (0#4 ++ slot) : BitVec 17).setWidth 32).extractLsb' 0 4 = slot ∧
      ((n ++ (0#4 ++ slot) : BitVec 17).setWidth 32).extractLsb' 8 9 = n := by
  rw [BitVec.extractLsb'_setWidth_of_le (by decide), BitVec.extractLsb'_setWidth_of_le (by decide)]
  exact ⟨(BitVec.extractLsb'_append_eq_of_add_le (by decide)).trans BitVec.extractLsb'_append_eq_right,
    BitVec.extractLsb'_append_eq_left⟩

/-- The direction and the level of `BK_INIT`. -/
theorem sessionFields_read (direction : Bool) (level : BitVec 4) :
    ((level ++ (0#3 ++ BitVec.ofBool direction) : BitVec 8).setWidth 32).getLsbD 0 = direction ∧
      ((level ++ (0#3 ++ BitVec.ofBool direction) : BitVec 8).setWidth 32).extractLsb' 4 4 = level := by
  rw [BitVec.extractLsb'_setWidth_of_le (by decide)]
  refine ⟨?_, BitVec.extractLsb'_append_eq_left⟩
  simp only [BitVec.getLsbD_setWidth, BitVec.getLsbD_append]
  simp

theorem word_masked (a : Word) : a = a &&& 0xFFFFFFFF#32 := BitVec.and_allOnes.symm

theorem zero_masked (a : Word) : 0#32 = a &&& 0#32 := BitVec.and_zero.symm

theorem field_masked (a : Word) (n : Nat) : (a.extractLsb' 0 n).setWidth 32 = a &&& (BitVec.allOnes n).setWidth 32 := by
  apply BitVec.eq_of_getLsbD_eq
  intro i hi
  simp [hi, Bool.and_comm]

theorem twoFields_masked (a : Word) (n gap m : Nat) :
    (a.extractLsb' (gap + m) n ++ (0#gap ++ a.extractLsb' 0 m)).setWidth 32 =
      a &&& (BitVec.allOnes n ++ (0#gap ++ BitVec.allOnes m)).setWidth 32 := by
  apply BitVec.eq_of_getLsbD_eq
  intro i hi
  simp only [BitVec.getLsbD_and, BitVec.getLsbD_setWidth, BitVec.getLsbD_append, BitVec.getLsbD_extractLsb',
    BitVec.getLsbD_allOnes, BitVec.getLsbD_zero, hi, decide_true, Bool.true_and]
  by_cases hlow : i < m
  · simp [hlow, show i < gap + m by omega]
  · by_cases hgap : i < gap + m
    · simp [hlow, hgap]
    · simp [hgap, Bool.and_comm, show gap + m + (i - (gap + m)) = i by omega]

theorem ofBool_getLsbD (a : Word) (k : Nat) : BitVec.ofBool (a.getLsbD k) = a.extractLsb' k 1 := by
  apply BitVec.eq_of_getLsbD_eq
  intro i hi
  obtain rfl : i = 0 := by omega
  simp

theorem bit_masked (a : Word) : (BitVec.ofBool (a.getLsbD 0)).setWidth 32 = a &&& 1#32 := by
  rw [ofBool_getLsbD]
  exact field_masked a 1

theorem initBits_masked (a : Word) :
    (BitVec.ofBool (orderOfBit (a.getLsbD 1)).bit ++ BitVec.ofBool (modeOfBit (a.getLsbD 0)).bit : BitVec 2).setWidth
      32 = a &&& 3#32 := by
  rw [bit_orderOfBit, bit_modeOfBit, ofBool_getLsbD, ofBool_getLsbD,
    BitVec.extractLsb'_append_extractLsb'_eq_extractLsb' (show 1 = 0 + 1 from rfl)]
  exact field_masked a 2

theorem sessionFields_masked (a : Word) :
    (a.extractLsb' 4 4 ++ (0#3 ++ BitVec.ofBool (directionOfBit (a.getLsbD 0)).bit) : BitVec 8).setWidth 32 =
      a &&& 0xF1#32 := by
  rw [bit_directionOfBit, ofBool_getLsbD]
  exact twoFields_masked a 4 3 1

/-! ### Decoding the encoding -/

/-- Settles O1: the fields of the encoding are read where they were written. -/
theorem decodeInvertsEncode : Obligations.DecodeInvertsEncode := by
  intro i
  unfold decode encode
  rw [Laws.OpcodeRead.opOf_commandWord, operandA_commandWord, operandB_commandWord]
  cases i with
  | coreReset | bcAlign | bcFlush | bcClose | bkDecompress | swGet _ | swCopy _ _ | mfToken _ => rfl
  | bcInit mode order =>
    obtain ⟨hmode, horder⟩ := initBits_read mode.bit order.bit
    simp only [Instr.opcode, Instr.encodeA, hmode, horder]
    simp
  | hcBuildFreq slot n limit | hcBuildLen slot n limit =>
    obtain ⟨hslot, hn⟩ := buildFields_read slot n
    simp only [Instr.opcode, Instr.encodeA, Instr.encodeB, hslot, hn]
    simp
  | bkInit direction level =>
    obtain ⟨hdirection, hlevel⟩ := sessionFields_read direction.bit level
    simp only [Instr.opcode, Instr.encodeA, hdirection, hlevel]
    simp
  | _ => simp [Instr.opcode, Instr.encodeA, Instr.encodeB]

/-! ### Words that decode (R92, R97) -/

theorem opOf_and (w u : BitVec 72) : opOf (w &&& u) = opOf w &&& opOf u := BitVec.extractLsb'_and

theorem opOf_usedBits : ∀ op : BitVec 8, opOf (usedBits op) = 0xFF#8 := by decide

theorem opOf_and_usedBits (w : BitVec 72) (op : BitVec 8) : opOf (w &&& usedBits op) = opOf w := by
  rw [opOf_and, opOf_usedBits]
  exact BitVec.and_allOnes

/-- A command word with the fields of `w` is `w` under the mask of its used bits. -/
theorem encode_eq_masked {w : BitVec 72} {i : Instr} {ma mb : Word} (op : BitVec 8) (hw : (opOf w).toNat = op.toNat)
    (ha : i.encodeA = operandA w &&& ma) (hb : i.encodeB = operandB w &&& mb) (hi : i.opcode = op := by rfl)
    (hused : usedBits op = commandWord 0xFF#8 ma mb := by decide) : encode i = w &&& usedBits (opOf w) := by
  have hop := BitVec.eq_of_toNat_eq hw
  rw [hop, hused, ← commandWord_parts w, commandWord_and, ← ha, ← hb, hop, ← hi]
  exact congrArg (commandWord · _ _) BitVec.and_allOnes.symm

/-- A word that decodes, under the mask of its used bits, is its command's encoding: arm by arm of `decode`, what is
written is the word's operand under the mask of its fields. -/
theorem encode_of_decode {w : BitVec 72} {i : Instr} (h : decode w = .ok i) : encode i = w &&& usedBits (opOf w) := by
  unfold decode at h
  split at h <;> rename_i hop <;> cases h
  · exact encode_eq_masked 0x01 hop (field_masked (operandA w) 8) (zero_masked (operandB w))
  · exact encode_eq_masked 0x02 hop (zero_masked (operandA w)) (zero_masked (operandB w))
  · exact encode_eq_masked 0x10 hop (initBits_masked (operandA w)) (zero_masked (operandB w))
  · exact encode_eq_masked 0x11 hop (word_masked (operandA w)) (field_masked (operandB w) 6)
  · exact encode_eq_masked 0x12 hop (zero_masked (operandA w)) (field_masked (operandB w) 6)
  · exact encode_eq_masked 0x13 hop (zero_masked (operandA w)) (field_masked (operandB w) 6)
  · exact encode_eq_masked 0x14 hop (zero_masked (operandA w)) (zero_masked (operandB w))
  · exact encode_eq_masked 0x15 hop (zero_masked (operandA w)) (zero_masked (operandB w))
  · exact encode_eq_masked 0x16 hop (zero_masked (operandA w)) (zero_masked (operandB w))
  · exact encode_eq_masked 0x20 hop (field_masked (operandA w) 17) (zero_masked (operandB w))
  · exact encode_eq_masked 0x21 hop (field_masked (operandA w) 8) (zero_masked (operandB w))
  · exact encode_eq_masked 0x22 hop (word_masked (operandA w)) (zero_masked (operandB w))
  · exact encode_eq_masked 0x23 hop (word_masked (operandA w)) (word_masked (operandB w))
  · exact encode_eq_masked 0x30 hop (field_masked (operandA w) 9) (word_masked (operandB w))
  · exact encode_eq_masked 0x31 hop (twoFields_masked (operandA w) 9 4 4) (field_masked (operandB w) 4)
  · exact encode_eq_masked 0x32 hop (twoFields_masked (operandA w) 9 4 4) (field_masked (operandB w) 4)
  · exact encode_eq_masked 0x33 hop (field_masked (operandA w) 4) (field_masked (operandB w) 9)
  · exact encode_eq_masked 0x34 hop (field_masked (operandA w) 4) (zero_masked (operandB w))
  · exact encode_eq_masked 0x35 hop (field_masked (operandA w) 4) (zero_masked (operandB w))
  · exact encode_eq_masked 0x40 hop (field_masked (operandA w) 4) (zero_masked (operandB w))
  · exact encode_eq_masked 0x41 hop (zero_masked (operandA w)) (bit_masked (operandB w))
  · exact encode_eq_masked 0x42 hop (word_masked (operandA w)) (zero_masked (operandB w))
  · exact encode_eq_masked 0x50 hop (sessionFields_masked (operandA w)) (zero_masked (operandB w))
  · exact encode_eq_masked 0x51 hop (field_masked (operandA w) 4) (zero_masked (operandB w))
  · exact encode_eq_masked 0x52 hop (zero_masked (operandA w)) (zero_masked (operandB w))
  · exact encode_eq_masked 0x53 hop (bit_masked (operandA w)) (word_masked (operandB w))

theorem opcode_mem_defined (i : Instr) : i.opcode ∈ definedOpcodes := by
  cases i <;> simp [Instr.opcode, definedOpcodes]

theorem opOf_of_decode {w : BitVec 72} {i : Instr} (h : decode w = .ok i) : opOf w = i.opcode := by
  have hop := congrArg opOf (encode_of_decode h)
  rw [opOf_and_usedBits] at hop
  exact hop.symm.trans (Laws.OpcodeRead.opOf_commandWord _ _ _)

theorem decode_of_defined {w : BitVec 72} (h : opOf w ∈ definedOpcodes) : ∃ i, decode w = .ok i := by
  unfold decode
  generalize opOf w = op at h
  fin_cases h <;> exact ⟨_, rfl⟩

/-- A reserved opcode is rejected by name (R97). -/
theorem decode_of_reserved {w : BitVec 72} (h : opOf w ∉ definedOpcodes) :
    decode w = .error (.reservedOpcode (opOf w)) := by
  cases hd : decode w with
  | ok i => exact absurd (opOf_of_decode hd ▸ opcode_mem_defined i) h
  | error e =>
    unfold decode at hd
    split at hd <;> cases hd
    rfl

/-- Settles O2: the part of a word that its opcode uses is an encoding, and an encoding decodes to one command only. -/
theorem encodeRestoresUsedBits : Obligations.EncodeRestoresUsedBits := by
  intro w i hw
  have hi := encode_of_decode hw
  refine ⟨hi, fun u hu => ?_⟩
  have hop : opOf u = opOf w := by rw [← opOf_and_usedBits u (opOf w), hu, opOf_and_usedBits]
  obtain ⟨j, hj⟩ := decode_of_defined (w := u) (hop ▸ opOf_of_decode hw ▸ opcode_mem_defined i)
  have hencode : encode j = encode i := by rw [encode_of_decode hj, hop, hu, hi]
  rw [hj, ← decodeInvertsEncode j, hencode, decodeInvertsEncode i]

/-- Settles O5. -/
theorem specWordsDecode : Obligations.SpecWordsDecode := ⟨rfl, rfl, rfl, rfl, rfl, rfl, rfl, rfl⟩

end Sys2Proof.Machine
end

section

namespace Sys2Proof.Machine

/-! ### Operands out of range (R97, R378) -/

theorem opcode_lt (i : Instr) : i.opcode.toNat < 0x60 := by cases i <;> simp [Instr.opcode]

/-- The answer to an operand out of range (R97, R378): the error registers and the response. -/
abbrev AnswersMisuse (i : Instr) (s : State) : Prop :=
  ∃ info r0 : Word, exec i s = .next
    ({ s with err := { kind := 6, unit := i.opcode >>> 4, info := info } }.respond (errorResponse 6 r0))

theorem AnswersMisuse.of_misuseWith {i : Instr} {s : State} {info : Nat}
    (h : exec i s = .next (s.misuseWith i.opcode info)) : AnswersMisuse i s := by
  refine ⟨BitVec.ofNat 32 info, BitVec.ofNat 32 info, ?_⟩
  rw [h, ← unitOfOp_eq_shift _ (opcode_lt i)]
  rfl

/-- `REG_READ` knows the listed numbers only, whatever the registers hold (R352). -/
theorem readReg_eq_none (s : State) {number : BitVec 8} (h : Instr.listedRegister number.toNat = false) :
    s.readReg number.toNat = none := by
  have hreset : ∀ number : BitVec 8, Instr.listedRegister number.toNat = false →
      (State.reset.readReg number.toNat).isSome = false := by decide
  rw [← Option.not_isSome_iff_eq_none, State.readReg_isSome s State.reset, hreset number h]
  simp

theorem buildRefuses_of_not_buildable (s : State) {slot n limit : Nat} (h : Instr.buildable slot n limit = false) :
    s.buildRefuses slot n limit = true := by
  simp only [Instr.buildable, Bool.and_eq_false_iff, decide_eq_false_iff_not] at h
  simp only [State.buildRefuses, Bool.or_eq_true, decide_eq_true_eq, beq_iff_eq]
  omega

/-- An operand out of range is refused in every state, whatever else is wrong; `BK_COMPRESS` alone answers counts and
not the recorded value. -/
theorem exec_illFormed (i : Instr) (s : State) (h : i.wellFormed = false) : AnswersMisuse i s := by
  cases i with
  | regRead number =>
    refine .of_misuseWith (info := number.toNat) ?_
    rw [exec, execRegRead, readReg_eq_none s h]
    rfl
  | bcWriteBits _ count | bcReadBits count | bcPeekBits count =>
    have hcount : 32 < count.toNat := by simpa [Instr.wellFormed] using h
    exact .of_misuseWith (if_pos (by simp [State.bcRefuses, hcount]))
  | swInit capacity =>
    have hcapacity : capacity.toNat < 4096 ∨ 65536 < capacity.toNat := by
      simp only [Instr.wellFormed, Bool.and_eq_false_iff, decide_eq_false_iff_not] at h
      omega
    by_cases hopen : s.sessionOpen = true
    · exact .of_misuseWith (if_pos hopen)
    · exact .of_misuseWith ((if_neg hopen).trans (if_pos (by simpa using hcapacity)))
  | hcStage index value =>
    have hindex : 319 < index.toNat := by simpa [Instr.wellFormed] using h
    exact .of_misuseWith (if_pos (by simp [hindex]))
  | hcBuildFreq _ _ _ | hcBuildLen _ _ _ => exact .of_misuseWith (if_pos (buildRefuses_of_not_buildable s h))
  | hcEncode slot _ | hcDecode slot =>
    have hslot : 4 < slot.toNat := by simpa [Instr.wellFormed] using h
    exact .of_misuseWith (if_pos (by simp [State.hcRefuses, hslot]))
  | hcDiscard slot =>
    have hslot : 2 < slot.toNat := by simpa [Instr.wellFormed] using h
    exact .of_misuseWith (if_pos (by simp [hslot]))
  | mfInit level =>
    have hlevel : 9 < level.toNat := by simpa [Instr.wellFormed] using h
    by_cases hopen : s.sessionOpen = true
    · exact .of_misuseWith (if_pos hopen)
    · exact .of_misuseWith ((if_neg hopen).trans (if_pos hlevel))
  | bkInit direction level =>
    simp only [Instr.wellFormed, Bool.or_eq_false_iff, decide_eq_false_iff_not, Nat.not_le] at h
    obtain ⟨hdirection, hlevel⟩ := h
    cases direction with
    | decode => simp at hdirection
    | encode => exact .of_misuseWith (if_pos ⟨rfl, hlevel⟩)
  | bkCompress level =>
    have hlevel : 9 < level.toNat := by simpa [Instr.wellFormed] using h
    have hunit : (Instr.bkCompress level).opcode >>> 4 = 5#8 := by simp [Instr.opcode]
    refine ⟨BitVec.ofNat 32 level.toNat, 0, ?_⟩
    rw [exec, execBkCompress, if_pos hlevel, hunit]
    rfl
  | coreReset | bcInit _ _ | bcAlign | bcFlush | bcClose | swPush _ | swGet _ | swCopy _ _ | mfRun _ | mfToken _
  | bkDecompress | bkFeed _ _ => simp [Instr.wellFormed] at h

/-- Settles O3: a reserved opcode does not decode (`decode_of_reserved`); an operand out of range is refused by the
command's own rule (`exec_illFormed`). -/
theorem reservedEncodingsAreMisuse : Obligations.ReservedEncodingsAreMisuse := by
  refine ⟨fun w rest s hop hscript => ?_, exec_illFormed⟩
  have hunit : BitVec.ofNat 8 (unitOfOp (opOf w).toNat) = if (opOf w).toNat < 0x60 then opOf w >>> 4 else 0 := by
    split
    · exact unitOfOp_eq_shift _ ‹_›
    · rw [unitOfOp, if_neg (by omega)]
      rfl
  rw [step, hscript]
  dsimp only
  rw [decode_of_reserved hop, ← hunit]
  exact congrArg Host.Outcome.next (State.misuse_eq_refusedWith _ _)

end Sys2Proof.Machine
end

section

namespace Sys2Proof.Machine

/-! ### The token word (R96) -/

theorem litWord_eq (b : Byte) : (Token.lit b).word = 0#24 ++ b := BitVec.setWidth_eq_append (by decide)

theorem copyWord_eq (length : BitVec 9) (distance : BitVec 17) :
    (Token.copy length.toNat distance.toNat).word = 1#1 ++ 0#5 ++ length ++ distance := by
  rw [Token.word, BitVec.ofNat_toNat, BitVec.ofNat_toNat, BitVec.setWidth_eq, BitVec.setWidth_eq, BitVec.append_assoc,
    BitVec.append_assoc]
  rfl

theorem ofWord_litWord (b : Byte) : Token.ofWord (Token.lit b).word = .lit b := by
  have hkind : (Token.lit b).word.getLsbD 31 = false := by
    rw [litWord_eq, BitVec.getLsbD_append]
    simp
  have hbyte : (Token.lit b).word.extractLsb' 0 8 = b := by rw [litWord_eq]; exact BitVec.extractLsb'_append_eq_right
  rw [Token.ofWord, hkind, hbyte]
  rfl

theorem ofWord_copyWord {length distance : Nat} (hlength : length < 2 ^ 9) (hdistance : distance < 2 ^ 17) :
    Token.ofWord (Token.copy length distance).word = .copy length distance := by
  have hkind : (Token.copy length distance).word.getLsbD 31 = true := by
    rw [Token.word, BitVec.getLsbD_append]
    simp
  have hfields : ∀ {k n : Nat}, k + n ≤ 26 → (Token.copy length distance).word.extractLsb' k n =
      (BitVec.ofNat 9 length ++ BitVec.ofNat 17 distance).extractLsb' k n := fun {k n} h =>
    (BitVec.extractLsb'_append_eq_of_add_le (show k + n ≤ 31 by omega)).trans
      (BitVec.extractLsb'_append_eq_of_add_le h)
  have hlength' := (hfields (k := 17) (n := 9) (by decide)).trans BitVec.extractLsb'_append_eq_left
  have hdistance' := (hfields (k := 0) (n := 17) (by decide)).trans BitVec.extractLsb'_append_eq_right
  rw [Token.ofWord, hkind, hlength', hdistance', BitVec.toNat_ofNat, BitVec.toNat_ofNat, Nat.mod_eq_of_lt hlength,
    Nat.mod_eq_of_lt hdistance]
  rfl

/-- A token in bounds fits the fields of its word (R96, R240). -/
theorem ofWord_word {t : Token} {before : Nat} (h : tokenInBounds before t = true) : Token.ofWord t.word = t := by
  cases t with
  | lit b => exact ofWord_litWord b
  | copy length distance =>
    simp only [tokenInBounds, Bool.and_eq_true, decide_eq_true_eq] at h
    obtain ⟨⟨⟨⟨-, hlength⟩, -⟩, hdistance⟩, -⟩ := h
    exact ofWord_copyWord (by omega) (by omega)

/-- Settles O48. -/
theorem mfTokenResult : Obligations.MfTokenResult := by
  refine ⟨fun index s hclosed hopened hindex => ?_, fun t ht => ofWord_word ht, litWord_eq, copyWord_eq⟩
  have hrefuses : ¬s.mfRefuses = true := by simp [State.mfRefuses, hclosed, hopened]
  have htoken : s.mf.tok[index.toNat]? = some (s.mf.tok.getD index.toNat 0) := by
    rw [List.getElem?_eq_getElem hindex, List.getD_eq_getElem _ _ hindex]
  rw [exec, execMfToken, if_neg hrefuses, htoken]
  dsimp only [State.ok]
  rw [BitVec.ofNat_toNat, BitVec.setWidth_eq]
  rfl

end Sys2Proof.Machine
end

section

namespace Sys2Proof.Machine

/-! ### The constant tables' codes (R118, R208) -/

/-- A run of symbols of one length takes consecutive codes (R208). -/
theorem assignCodes_replicate {l : Nat} (hl : l ≠ 0) (rest : List Nat) : ∀ (k : Nat) (next : List Nat),
    l < next.length → assignCodes (List.replicate k l ++ rest) next =
      (List.range k).map (next.getD l 0 + ·) ++ assignCodes rest (next.set l (next.getD l 0 + k))
  | 0, next, hlt => by
    rw [Nat.add_zero, List.getD_eq_getElem _ _ hlt, List.set_getElem_self]
    rfl
  | k + 1, next, hlt => by
    have hset : (next.set l (next.getD l 0 + 1)).getD l 0 = next.getD l 0 + 1 := by
      rw [List.getD_eq_getElem _ _ (by rwa [List.length_set]), List.getElem_set_self]
    rw [List.replicate_succ, List.cons_append, assignCodes, if_neg hl,
      assignCodes_replicate hl rest k _ (by rwa [List.length_set]), hset, List.set_set, List.range_succ_eq_map,
      List.map_cons, List.map_map, Nat.add_zero, List.cons_append]
    simp only [Function.comp_def, Nat.succ_eq_add_one, Nat.add_assoc, Nat.add_comm 1, Nat.add_zero]

/-- The number of codes of each length in `T_FLL` (R118). -/
theorem fixedLit_count (l : Nat) :
    lenCount fixedLitLens l = if l = 7 then 24 else if l = 8 then 152 else if l = 9 then 112 else 0 := by
  simp only [lenCount, fixedLitLens, List.count_append, List.count_replicate, beq_iff_eq]
  split_ifs <;> omega

theorem fixedLit_firstCodes :
    firstCodes fixedLitLens = [0, 0, 0, 0, 0, 0, 0, 0, 48, 400, 1024, 2048, 4096, 8192, 16384, 32768] := by
  simp [firstCodes, codeStarts, fixedLit_count]

/-- The lengths of `T_FLL`, run by run (R118). -/
theorem fixedLitLens_runs : fixedLitLens =
    List.replicate 144 8 ++ (List.replicate 112 9 ++ (List.replicate 24 7 ++ (List.replicate 8 8 ++ []))) := by
  simp only [fixedLitLens, List.append_assoc, List.append_nil]

/-- The codes of `T_FLL`, run by run (R118). -/
theorem fixedLit_code_runs : fixedLit.code =
    (List.range 144).map (48 + ·) ++ ((List.range 112).map (400 + ·) ++ ((List.range 24).map (0 + ·) ++
      ((List.range 8).map (192 + ·) ++ []))) := by
  show assignCodes fixedLitLens (firstCodes fixedLitLens) = _
  rw [fixedLit_firstCodes, fixedLitLens_runs]
  iterate 4 rw [assignCodes_replicate (by decide) _ _ _ (by decide)]
  simp [assignCodes]

theorem fixedDist_firstCodes :
    firstCodes fixedDistLens = [0, 0, 0, 0, 0, 0, 64, 128, 256, 512, 1024, 2048, 4096, 8192, 16384, 32768] := by
  have hcount : ∀ l, lenCount fixedDistLens l = if l = 5 then 32 else 0 := by
    intro l
    simp only [lenCount, fixedDistLens, List.count_replicate, beq_iff_eq]
    split_ifs <;> omega
  simp [firstCodes, codeStarts, hcount]

theorem fixedDist_code_run : fixedDist.code = (List.range 32).map (0 + ·) ++ [] := by
  have hrun : fixedDistLens = List.replicate 32 5 ++ [] := (List.append_nil _).symm
  show assignCodes fixedDistLens (firstCodes fixedDistLens) = _
  rw [fixedDist_firstCodes, hrun, assignCodes_replicate (by decide) _ _ _ (by decide)]
  simp [assignCodes]

theorem getD_lenRun (k l v : Nat) (rest : List Nat) :
    (List.replicate k l ++ rest).getD v 0 = if v < k then l else rest.getD (v - k) 0 := by
  split
  · rename_i h
    rw [List.getD_append _ _ _ _ (by rwa [List.length_replicate]), List.getD_replicate _ h]
  · rw [List.getD_append_right _ _ _ _ (by rw [List.length_replicate]; omega), List.length_replicate]

theorem getD_codeRun (k a v : Nat) (rest : List Nat) :
    ((List.range k).map (a + ·) ++ rest).getD v 0 = if v < k then a + v else rest.getD (v - k) 0 := by
  split
  · rename_i h
    rw [List.getD_append _ _ _ _ (by simpa), List.getD_eq_getElem _ _ (by simpa), List.getElem_map, List.getElem_range]
  · rw [List.getD_append_right _ _ _ _ (by simp; omega), List.length_map, List.length_range]

/-- Code and length of a symbol of `T_FLL` (R118). -/
theorem fixedLit_codeOf {v : Nat} (hv : v < 288) : fixedLit.codeOf v =
    if v < 144 then (48 + v, 8)
    else if v < 256 then (400 + (v - 144), 9)
    else if v < 280 then (v - 256, 7)
    else (192 + (v - 280), 8) := by
  have hlen : fixedLit.len = fixedLitLens := rfl
  rw [Table.codeOf, fixedLit_code_runs, hlen, fixedLitLens_runs]
  simp only [getD_lenRun, getD_codeRun]
  rcases Nat.lt_or_ge v 144 with h144 | h144
  · simp only [if_pos h144]
  rcases Nat.lt_or_ge v 256 with h256 | h256
  · simp only [if_neg (Nat.not_lt.mpr h144), if_pos h256, if_pos (show v - 144 < 112 by omega)]
  rcases Nat.lt_or_ge v 280 with h280 | h280
  · simp only [if_neg (Nat.not_lt.mpr h144), if_neg (Nat.not_lt.mpr h256), if_pos h280,
      if_neg (show ¬v - 144 < 112 by omega), if_pos (show v - 144 - 112 < 24 by omega), Prod.mk.injEq,
      and_true]
    omega
  · simp only [if_neg (Nat.not_lt.mpr h144), if_neg (Nat.not_lt.mpr h256), if_neg (Nat.not_lt.mpr h280),
      if_neg (show ¬v - 144 < 112 by omega), if_neg (show ¬v - 144 - 112 < 24 by omega),
      if_pos (show v - 144 - 112 - 24 < 8 by omega), Prod.mk.injEq, and_true]
    omega

/-- Code and length of a symbol of `T_FD` (R118). -/
theorem fixedDist_codeOf {v : Nat} (hv : v < 32) : fixedDist.codeOf v = (v, 5) := by
  have hlen : fixedDist.len = List.replicate 32 5 ++ [] := (List.append_nil _).symm
  rw [Table.codeOf, fixedDist_code_run, hlen, getD_lenRun, getD_codeRun, if_pos hv, if_pos hv, Nat.zero_add]

theorem fixedLit_n : fixedLit.n = 288 := by
  show fixedLitLens.length = 288
  rw [fixedLitLens_runs]
  simp only [List.length_append, List.length_replicate, List.length_nil]

/-- `HC_ENCODE` of a symbol of a valid slot answers its code and length (R212). -/
theorem hcEncode_answers {slot : BitVec 4} {symbol : BitVec 9} {s : State} (hclosed : s.sessionOpen = false)
    (hslot : slot.toNat ≤ 4) (hvalid : (s.table slot.toNat).valid = true)
    (hsymbol : symbol.toNat < (s.table slot.toNat).n) : exec (.hcEncode slot symbol) s =
      .next (s.ok ((s.table slot.toNat).codeOf symbol.toNat).1 ((s.table slot.toNat).codeOf symbol.toNat).2) := by
  have hrefuses : ¬(s.hcRefuses slot.toNat || !(s.table slot.toNat).valid) = true := by
    simp [State.hcRefuses, hclosed, hslot, hvalid]
  rw [exec, execHcEncode, if_neg hrefuses, if_neg (Nat.not_le.mpr hsymbol)]

/-- Settles O41. -/
theorem fixedTablesCodes : Obligations.FixedTablesCodes := by
  intro symbol s hclosed v
  refine ⟨fun hv => ?_, fun hv => ?_⟩
  · rw [hcEncode_answers (slot := 3) hclosed (by decide) rfl (Nat.lt_of_lt_of_eq hv fixedLit_n.symm)]
    show Host.Outcome.next (s.ok (fixedLit.codeOf v).1 (fixedLit.codeOf v).2) = _
    rw [fixedLit_codeOf hv]
    split_ifs <;> rfl
  · rw [hcEncode_answers (slot := 4) hclosed (by decide) rfl (by exact hv)]
    show Host.Outcome.next (s.ok (fixedDist.codeOf v).1 (fixedDist.codeOf v).2) = _
    rw [fixedDist_codeOf hv]
    rfl

end Sys2Proof.Machine
end

section

namespace Sys2Proof.Machine

/-! ### The form of a response (R90, R93)

`State.Responds` says what a response means for the error registers; here is what stands in it. -/

theorem Ends.ite {P : State → Prop} {c : Prop} [Decidable c] {a b : Host.Outcome State Fault Refusal} (ha : Ends P a)
    (hb : Ends P b) : Ends P (if c then a else b) := by
  split
  · exact ha
  · exact hb

/-- The responses given so far and the host's list are the same. -/
abbrev State.SamePort (s t : State) : Prop :=
  t.port.responses = s.port.responses ∧ t.port.script = s.port.script

theorem State.SamePort.trans {s t u : State} (h : s.SamePort t) (h' : t.SamePort u) : s.SamePort u :=
  ⟨h'.1.trans h.1, h'.2.trans h.2⟩

/-- The ways a command answers: with its results, with a feed's status, or with an error, whose response carries the
recorded value or, from a session command, the counts (R93, R345, R348, R386). -/
inductive State.Answered (s : State) (i : Instr) : State → Prop
  | ok {t : State} (h : s.SamePort t) (r0 r1 : Nat) : s.Answered i (t.ok r0 r1)
  | feedOk {t : State} (h : s.SamePort t) (hi : ∃ last cap, i = .bkFeed last cap) (st : FeedStatus) (r0 r1 : Nat) :
    s.Answered i (t.feedOk st r0 r1)
  | raiseDirect {t : State} (h : s.SamePort t) (f : Raised) : s.Answered i (t.raiseDirect f)
  | raiseCounts {t : State} (h : s.SamePort t) (hi : 0x51 ≤ i.opcode.toNat) (f : Raised) (r0 r1 : Nat) :
    s.Answered i (t.raiseCounts f r0 r1)

section
variable {s t : State} {i : Instr}

theorem ErrKind.code_le (k : ErrKind) : k.code.toNat ≤ 6 := by cases k <;> decide

theorem FeedStatus.code_le (st : FeedStatus) : st.code.toNat ≤ 3 := by cases st <;> decide

/-- What R93 says of the response, whichever way a command answers. -/
theorem State.Answered.response (h : s.Answered i t) :
    ∃ r, t.port.responses = s.port.responses ++ [r] ∧ t.port.script = s.port.script ∧
      r.err.toNat ≤ 6 ∧ r.aux.toNat ≤ 3 ∧
      (r.err ≠ 0 → t.err.kind = r.err ∧ r.aux = 0) ∧
      (r.err ≠ 0 → i.opcode.toNat < 0x51 → r.r0 = t.err.info ∧ r.r1 = 0) ∧
      ((∀ last cap, i ≠ .bkFeed last cap) → r.aux = 0) := by
  cases h with
  | ok h r0 r1 =>
    obtain ⟨hresponses, hscript⟩ := h
    exact ⟨_, congrArg (· ++ [_]) hresponses, hscript, Nat.zero_le 6, Nat.zero_le 3, fun h => absurd rfl h,
      fun h => absurd rfl h, fun _ => rfl⟩
  | feedOk h hi st r0 r1 =>
    obtain ⟨hresponses, hscript⟩ := h
    obtain ⟨last, cap, hi⟩ := hi
    exact ⟨_, congrArg (· ++ [_]) hresponses, hscript, Nat.zero_le 6, st.code_le, fun h => absurd rfl h,
      fun h => absurd rfl h, fun h => absurd hi (h last cap)⟩
  | raiseDirect h f =>
    obtain ⟨hresponses, hscript⟩ := h
    exact ⟨_, congrArg (· ++ [_]) hresponses, hscript, f.kind.code_le, Nat.zero_le 3, fun _ => ⟨rfl, rfl⟩,
      fun _ _ => ⟨rfl, rfl⟩, fun _ => rfl⟩
  | raiseCounts h hi f r0 r1 =>
    obtain ⟨hresponses, hscript⟩ := h
    exact ⟨_, congrArg (· ++ [_]) hresponses, hscript, f.kind.code_le, Nat.zero_le 3, fun _ => ⟨rfl, rfl⟩,
      fun _ hlt => absurd hlt (Nat.not_lt.mpr hi), fun _ => rfl⟩

theorem answered_ok (h : s.SamePort t := by exact ⟨rfl, rfl⟩) {r0 r1 : Nat} :
    Ends (s.Answered i) (.next (t.ok r0 r1)) := .next (.ok h r0 r1)

theorem answered_ok_finish (h : s.SamePort t := by exact ⟨rfl, rfl⟩) {r0 r1 : Nat} :
    Ends (s.Answered i) (t.ok r0 r1).finish := .of_finish fun _ => .ok h r0 r1

theorem answered_raise (h : s.SamePort t := by exact ⟨rfl, rfl⟩) {f : Raised} :
    Ends (s.Answered i) (.next (t.raiseDirect f)) := .next (.raiseDirect h f)

theorem answered_raise_finish (h : s.SamePort t := by exact ⟨rfl, rfl⟩) {f : Raised} :
    Ends (s.Answered i) (t.raiseDirect f).finish := .of_finish fun _ => .raiseDirect h f

theorem answered_counts (hi : 0x51 ≤ i.opcode.toNat) (h : s.SamePort t := by exact ⟨rfl, rfl⟩) {f : Raised}
    {r0 r1 : Nat} : Ends (s.Answered i) (.next (t.raiseCounts f r0 r1)) := .next (.raiseCounts h hi f r0 r1)

theorem answered_counts_finish (hi : 0x51 ≤ i.opcode.toNat) (h : s.SamePort t) {f : Raised} {r0 r1 : Nat} :
    Ends (s.Answered i) (t.raiseCounts f r0 r1).finish := .of_finish fun _ => .raiseCounts h hi f r0 r1

theorem answered_feed_finish {last : Bool} {outCap : Word} (h : s.SamePort t) {st : FeedStatus} {r0 r1 : Nat} :
    Ends (s.Answered (.bkFeed last outCap)) (t.feedOk st r0 r1).finish :=
  .of_finish fun _ => .feedOk h ⟨last, outCap, rfl⟩ st r0 r1

theorem answered_misuse {op : BitVec 8} : Ends (s.Answered i) (.next (s.misuse op)) := answered_raise

theorem answered_misuseWith {op : BitVec 8} {info : Nat} : Ends (s.Answered i) (.next (s.misuseWith op info)) :=
  answered_raise

end

/-! ### What each command answers -/

section
variable {s : State}

theorem answerBuilt_answered {i : Instr} (slot : Nat) (b : Built) : Ends (s.Answered i) (s.answerBuilt slot b) := by
  obtain ⟨-, hport⟩ := s.sameHost_putBuilt slot b
  cases b with
  | table t => exact answered_ok hport
  | failed info => exact answered_raise hport

/-- The commands of units 0 to 4. -/
theorem exec_answered_units (i : Instr) (h : i.opcode.toNat < 0x50) : Ends (s.Answered i) (exec i s) := by
  cases i with
  | regRead number =>
    rw [exec, execRegRead]
    split
    · exact answered_ok
    · exact answered_misuseWith
  | coreReset => exact answered_ok
  | bcInit _ _ => exact .ite answered_misuse answered_ok
  | bcWriteBits _ _ => exact .ite answered_misuse answered_ok_finish
  | bcReadBits _ => exact .ite answered_misuse (.ite answered_raise_finish answered_ok_finish)
  | bcPeekBits _ => exact .ite answered_misuse (.ite answered_raise_finish answered_ok_finish)
  | bcAlign =>
    refine .ite answered_misuse ?_
    split
    · exact .ite answered_misuse answered_ok_finish
    · exact answered_ok_finish
  | bcFlush => exact .ite answered_misuse answered_ok_finish
  | bcClose =>
    refine .ite answered_misuse ?_
    dsimp only
    split <;> exact answered_ok_finish
  | swInit _ => exact .ite answered_misuse (.ite answered_misuseWith answered_ok)
  | swPush _ => exact .ite answered_misuse answered_ok_finish
  | swGet _ =>
    refine .ite answered_misuse ?_
    split
    · exact answered_raise
    · exact answered_ok
  | swCopy _ _ => exact .ite answered_misuse (.ite answered_ok_finish answered_raise)
  | hcStage _ _ => exact .ite answered_misuse answered_ok
  | hcBuildFreq _ _ _ => exact .ite answered_misuse (answerBuilt_answered _ _)
  | hcBuildLen _ _ _ => exact .ite answered_misuse (answerBuilt_answered _ _)
  | hcEncode _ _ => exact .ite answered_misuse (.ite answered_misuseWith answered_ok)
  | hcDecode _ =>
    refine .ite answered_misuse ?_
    split
    · exact answered_ok_finish
    · exact answered_raise_finish
    · exact answered_raise_finish
  | hcDiscard slot => exact .ite answered_misuse (answered_ok (s.sameHost_discard slot.toNat).2)
  | mfInit _ => exact .ite answered_misuse (.ite answered_misuseWith answered_ok)
  | mfRun _ => exact .ite answered_misuse answered_ok_finish
  | mfToken _ =>
    refine .ite answered_misuse ?_
    split
    · exact answered_misuseWith
    · exact answered_ok
  | bkInit _ _ | bkCompress _ | bkDecompress | bkFeed _ _ => simp [Instr.opcode] at h

theorem feedDecode_answered {last : Bool} {outCap : Word} :
    Ends (s.Answered (.bkFeed last outCap)) (s.feedDecode params last outCap.toNat) := by
  have hpost : EngineEnd.Post s.SameHost s.SameHost _ := decEngine_host params (s.markLast last) (some outCap.toNat)
  unfold State.feedDecode
  dsimp only
  generalize (s.markLast last).decEngine params (some outCap.toNat) = e at hpost ⊢
  cases hpost with
  | stopped => exact .fault
  | raised h => exact answered_counts_finish (by simp [Instr.opcode]) (by exact h.2)
  | status h =>
    dsimp only
    split <;> exact answered_feed_finish (by exact h.2)

theorem feedEncodeEnd_answered {t : State} (h : s.SamePort t) {last : Bool} {outCap : Word} {consumed produced : Nat} :
    Ends (s.Answered (.bkFeed last outCap)) (t.feedEncodeEnd consumed produced).finish := by
  unfold State.feedEncodeEnd
  split
  · exact answered_feed_finish (by exact h)
  · split <;> exact answered_feed_finish (by exact h)

theorem feedEncode_answered {last : Bool} {outCap : Word} :
    Ends (s.Answered (.bkFeed last outCap)) (s.feedEncode params last outCap.toNat) := by
  unfold State.feedEncode
  dsimp only
  split
  · have hpost : EncPost s.SameHost s.SameHost _ :=
      ((s.drain (some outCap.toNat)).absorbed last).encEngine_host params
    rw [State.absorbed] at hpost
    generalize State.encEngine params _ = e at hpost ⊢
    cases hpost with
    | raised h => exact answered_counts_finish (by simp [Instr.opcode]) (by exact h.2)
    | done h => exact feedEncodeEnd_answered (t := State.drain _ _) h.2
  · exact feedEncodeEnd_answered (s := s) (t := s.drain _) ⟨rfl, rfl⟩

theorem bkCompress_answered (level : BitVec 4) :
    Ends (s.Answered (.bkCompress level)) (exec (.bkCompress level) s) := by
  have hstart : s.SamePort (s.startSession params .encode level.toNat) := by simp [State.SamePort]
  refine .ite (answered_counts (by simp [Instr.opcode])) ?_
  dsimp only
  generalize s.startSession params .encode level.toNat = u at hstart ⊢
  have hpost : EncPost u.SameHost u.SameHost _ := (u.absorbed true).encEngine_host params
  rw [State.absorbed] at hpost
  generalize State.encEngine params _ = e at hpost ⊢
  cases hpost with
  | raised h => exact answered_counts_finish (by simp [Instr.opcode]) (by exact hstart.trans h.2)
  | done h => exact answered_ok_finish (by exact hstart.trans h.2)

theorem bkDecompress_answered : Ends (s.Answered .bkDecompress) (exec .bkDecompress s) := by
  have hstart : s.SamePort (s.startSession params .decode 0) := by simp [State.SamePort]
  rw [exec, execBkDecompress]
  dsimp only
  generalize s.startSession params .decode 0 = u at hstart ⊢
  have hpost : EngineEnd.Post u.SameHost u.SameHost _ := decEngine_host params (u.markLast true) none
  generalize State.decEngine params _ none = e at hpost ⊢
  cases hpost with
  | stopped => exact .fault
  | raised h => exact answered_counts_finish (by simp [Instr.opcode]) (by exact hstart.trans h.2)
  | status h => exact answered_ok_finish (by exact hstart.trans h.2)

/-- Every command answers once, in one of the ways of `State.Answered`. -/
theorem exec_answered (i : Instr) : Ends (s.Answered i) (exec i s) := by
  cases i with
  | bkInit _ _ => exact .ite answered_misuseWith (answered_ok (by simp [State.SamePort]))
  | bkCompress level => exact bkCompress_answered level
  | bkDecompress => exact bkDecompress_answered
  | bkFeed last outCap =>
    refine .ite ?_ (answered_counts (by simp [Instr.opcode]))
    split
    · exact feedDecode_answered
    · exact feedEncode_answered
  | _ => exact exec_answered_units _ (by simp [Instr.opcode])

end

/-- Settles O18: whichever way a command answers (`exec_answered`), the response is as R93 says. -/
theorem oneResponsePerCommand : Obligations.OneResponsePerCommand :=
  fun i _ _ hexec => ((exec_answered i).of_next hexec).response

end Sys2Proof.Machine
end

section

namespace Sys2Proof.Machine

/-! ### Refused commands (R140, R378) -/

section
variable {s : State} {mode : Mode} {count : Nat}

theorem State.bcClosed_iff : s.bcClosed = true ↔ s.sessionOpen = true ∨ s.bc.opened = false := by
  simp [State.bcClosed]

theorem State.bcRefuses_iff : s.bcRefuses mode count = true ↔
    s.bcClosed = true ∨ s.bc.mode ≠ mode ∨ 32 < count := by
  simp [State.bcRefuses, or_assoc]

end

/-- Settles O23: each premise fails a check of the commands it names (R140, R144, R155), and a command that fails one
answers its opcode. -/
theorem channelMisuseIsRefused : Obligations.ChannelMisuseIsRefused := by
  intro s mode order value count i h
  simp only [List.mem_cons, List.not_mem_nil, or_false] at h
  cases i with
  | bcInit m o =>
    obtain ⟨hopen, -⟩ : s.sessionOpen = true ∧ m = mode ∧ o = order := by simpa using h
    exact if_pos hopen
  | bcWriteBits _ c =>
    have hcheck : (s.bcRefuses .write c.toNat || s.bc.flushed) = true := by
      rw [Bool.or_eq_true, State.bcRefuses_iff, State.bcClosed_iff]
      grind
    exact if_pos hcheck
  | bcReadBits c | bcPeekBits c =>
    have hcheck : s.bcRefuses .read c.toNat = true := by
      rw [State.bcRefuses_iff, State.bcClosed_iff]
      grind
    exact if_pos hcheck
  | bcAlign =>
    by_cases hclosed : s.bcClosed = true
    · exact if_pos hclosed
    · rw [exec, execBcAlign, if_neg hclosed]
      rw [State.bcClosed_iff, not_or] at hclosed
      obtain ⟨hmode, hflushed⟩ : s.bc.mode = .write ∧ s.bc.flushed = true := by simpa [hclosed] using h
      rw [hmode]
      exact if_pos hflushed
  | bcFlush =>
    have hcheck : s.bcRefuses .write 0 = true := by
      rw [State.bcRefuses_iff, State.bcClosed_iff]
      grind
    exact if_pos hcheck
  | bcClose => exact if_pos (State.bcClosed_iff.mpr (by simpa using h))
  | _ => simp at h

end Sys2Proof.Machine
end

section

namespace Sys2Proof.Machine

/-! ### Reading a field (R147 to R149, R153) -/

section
variable {s : State} {count : BitVec 6} {r : Bc × List Byte} (haccepts : ¬s.bcRefuses .read count.toNat = true)
  (hneed : Bc.need count.toNat s.bc s.port.src = r)
include haccepts hneed

/-- An accepted read, its refill given (R147). -/
theorem execBcReadBits_of_need (henough : count.toNat ≤ r.1.nbits) :
    exec (.bcReadBits count) s =
      ({ s.setChannel r with bc := r.1.skip count.toNat }.ok (r.1.peek params count.toNat).toNat 0).finish := by
  subst hneed
  exact (if_neg haccepts).trans (if_neg (Nat.not_lt.mpr henough))

/-- An accepted peek, its refill given (R153). -/
theorem execBcPeekBits_of_need (henough : count.toNat ≤ r.1.nbits) :
    exec (.bcPeekBits count) s = ((s.setChannel r).ok (r.1.peek params count.toNat).toNat 0).finish := by
  subst hneed
  exact (if_neg haccepts).trans (if_neg (Nat.not_lt.mpr henough))

/-- An accepted read or peek whose refill falls short (R149). -/
theorem exec_of_need_short {i : Instr} (hi : i = .bcReadBits count ∨ i = .bcPeekBits count)
    (hshort : r.1.nbits < count.toNat) :
    exec i s = ((s.setChannel r).raiseDirect (endOfInput (count.toNat - r.1.nbits))).finish := by
  subst hneed
  rcases hi with rfl | rfl <;> exact (if_neg haccepts).trans (if_pos hshort)

end

/-- Settles O26: the refill's loop is the minimal fetch (`Bc.need_eq_fetched`), and no bit is lost in it
(`Bc.upcoming_need`). -/
theorem bcReadAndPeekResult : Obligations.BcReadAndPeekResult := by
  intro count s hready hcount havail hroom hfit k bits
  have haccepts : ¬s.bcRefuses .read count.toNat = true := by simp [hready.bcRefuses hcount]
  obtain ⟨-, -, hmode, hwf⟩ := hready
  obtain ⟨hacc, -, hnbits⟩ := (Bc.wf_read_iff hmode).mp hwf
  obtain ⟨htotal, hnbytes⟩ := hroom
  have hneed := Bc.need_eq_fetched hcount s.port.src s.bc hwf hmode havail
  have henough := Bc.need_suffices havail
  have hpeek := Bc.peek_eq_upcoming (Bc.need count.toNat s.bc s.port.src).2 hcount henough
  rw [Bc.upcoming_need hcount _ _ hwf hmode, ← State.upcoming_eq, hneed] at hpeek
  rw [hneed] at henough
  have hfetches : k = (count.toNat - s.bc.nbits + 7) / 8 := rfl
  have hbytes : s.bc.nbytes + k < 2 ^ 64 := by omega
  constructor
  · rw [execBcReadBits_of_need haccepts hneed henough, hpeek,
      Bc.fetched_skip s.port.src hacc (show s.bc.nbits + 8 * k ≤ 64 by omega)]
    exact State.finish_channel (s := s) hfit (show s.bc.total + count.toNat < 2 ^ 64 by omega) hbytes
  · rw [execBcPeekBits_of_need haccepts hneed henough, hpeek]
    exact State.finish_channel (s := s) hfit (show s.bc.total < 2 ^ 64 by omega) hbytes

/-- The refill for a field the source cannot supply takes every byte (R149). -/
theorem Bc.need_short {n : Nat} (hn : n ≤ 32) {c : Bc} {src : List Byte} (hwf : c.Wf) (hmode : c.mode = .read)
    (hshort : c.nbits + 8 * src.length < n) :
    Bc.need n c src =
      ({ c with
          acc := BitVec.ofNat 64 (c.upcoming src), nbits := c.nbits + 8 * src.length
          nbytes := c.nbytes + src.length },
        []) := by
  have hupcoming := Bc.upcoming_need hn src c hwf hmode
  obtain ⟨k, hk, hsrc, hnbits, hnbytes, htotal, hmode', horder, hopened, hflushed, hend, -⟩ := Bc.need_spec n src c
  obtain rfl : k = src.length := by omega
  rw [List.drop_length] at hsrc
  generalize Bc.need n c src = r at *
  obtain ⟨⟨⟩, rest⟩ := r
  dsimp only at *
  subst_vars
  rw [← hupcoming]
  simp [Bc.upcoming, streamValue]

/-- Settles O27: a refill that falls short has taken the whole source (`Bc.need_short`). -/
theorem shortReadConsumesNothing : Obligations.ShortReadConsumesNothing := by
  intro count s i hi hready hcount hshort hroom hfit n
  have haccepts : ¬s.bcRefuses .read count.toNat = true := by simp [hready.bcRefuses hcount]
  obtain ⟨-, -, hmode, hwf⟩ := hready
  obtain ⟨htotal, hnbytes⟩ := hroom
  rw [exec_of_need_short haccepts (Bc.need_short hcount hwf hmode hshort) hi hshort]
  exact State.finish_channel (s := { s with err := _ }) hfit (show s.bc.total < 2 ^ 64 by omega)
    (show s.bc.nbytes + s.port.src.length < 2 ^ 64 by omega)

/-! ### Fields of no bits (R142) -/

theorem Bc.skip_zero (c : Bc) : c.skip 0 = c := by simp [Bc.skip]

theorem Bc.peek_zero (P : Config.Params) (c : Bc) : (c.peek P 0).toNat = 0 := Nat.lt_one_iff.mp (c.peek_lt P 0)

theorem Bc.write_zero {c : Bc} (v : Word) (hc : c.Wf) (hmode : c.mode = .write) : c.write params v 0 = (c, []) := by
  obtain ⟨hnbits, -⟩ := hc.pending hmode
  rw [Bc.write_eq v hc hmode (Nat.zero_le 32), Bc.joined, Nat.add_zero, Nat.div_eq_of_lt hnbits,
    Nat.mod_eq_of_lt hnbits]
  simp [Nat.mod_one, streamBytes]

/-- Settles O28: neither a write, nor a refill, nor a skip of no bits does anything. -/
theorem zeroCountDoesNothing : Obligations.ZeroCountDoesNothing := by
  intro value s hfit
  have hfinish : (s.ok 0 0).finish = .next (s.respond (okResponse 0 0)) := State.finish_of_fit hfit
  refine ⟨fun hready hflushed => ?_, fun hready => ?_⟩
  · have haccepts : ¬(s.bcRefuses .write (0 : BitVec 6).toNat || s.bc.flushed) = true := by
      simp [hready.bcRefuses, hflushed]
    obtain ⟨-, -, hmode, hwf⟩ := hready
    have hwrite : s.bc.write params value (0 : BitVec 6).toNat = (s.bc, []) := Bc.write_zero value hwf hmode
    rw [exec, execBcWriteBits, if_neg haccepts, hwrite, ← hfinish]
    simp [State.putChannel, State.sinkPut]
  · have haccepts : ¬s.bcRefuses .read (0 : BitVec 6).toNat = true := by simp [hready.bcRefuses]
    have hneed : Bc.need (0 : BitVec 6).toNat s.bc s.port.src = (s.bc, s.port.src) := Bc.need_enough _ (Nat.zero_le _)
    have hpeek : (s.bc.peek params (0 : BitVec 6).toNat).toNat = 0 := s.bc.peek_zero params
    have hskip : s.bc.skip (0 : BitVec 6).toNat = s.bc := s.bc.skip_zero
    rw [execBcReadBits_of_need haccepts hneed (Nat.zero_le _), execBcPeekBits_of_need haccepts hneed (Nat.zero_le _),
      hpeek, hskip]
    exact ⟨hfinish, hfinish⟩

end Sys2Proof.Machine
end

section

namespace Sys2Proof.Machine

/-! ### Commands that complete -/

theorem State.countersFit_of_finish {s t : State} (h : s.finish = .next t) : t.countersFit = true := by
  obtain ⟨hfit, rfl⟩ := State.finish_next.mp h
  exact hfit

theorem execAll_cons {i : Instr} {s t : State} (rest : List Instr) (h : exec i s = .next t) :
    execAll (i :: rest) s = execAll rest t := by
  rw [execAll, h]

/-- A list of commands completes only if its first command does. -/
theorem execAll_cons_next {i : Instr} {rest : List Instr} {s u : State} (h : execAll (i :: rest) s = .next u) :
    ∃ t, exec i s = .next t ∧ execAll rest t = .next u := by
  rw [execAll] at h
  cases hi : exec i s with
  | next t =>
    rw [hi] at h
    exact ⟨t, rfl, h⟩
  | fault | refused =>
    rw [hi] at h
    cases h

theorem execAll_append {s t : State} (js : List Instr) : ∀ {is : List Instr}, execAll is s = .next t →
    execAll (is ++ js) s = execAll js t
  | [], h => by
    cases h
    rfl
  | i :: is, h => by
    obtain ⟨u, hu, hrest⟩ := execAll_cons_next h
    rw [List.cons_append, execAll_cons _ hu]
    exact execAll_append js hrest

/-! ### Fields read in turn (R150) -/

/-- How many bits a reading channel can still supply: the pending bits, then the source. -/
def State.available (s : State) : Nat := s.bc.nbits + 8 * s.port.src.length

/-- What completed reads of `n` bits in all have done to the channel and the source (R147, R148): the channel accepts
the next read, and the stream goes on behind those bits. -/
structure State.Consumes (s t : State) (n : Nat) : Prop where
  ready     : t.ChannelReady .read
  fit       : t.countersFit = true
  total     : t.bc.total = s.bc.total + n
  available : t.available + n = s.available
  upcoming  : t.upcoming = s.upcoming / 2 ^ n
  source    : t.port.src <:+ s.port.src
  pending   : s.bc.nbits < 8 → t.bc.nbits < 8

theorem State.Consumes.refl {s : State} (hready : s.ChannelReady .read) (hfit : s.countersFit = true) :
    s.Consumes s 0 :=
  ⟨hready, hfit, rfl, rfl, (Nat.div_one _).symm, List.suffix_refl _, id⟩

theorem State.Consumes.trans {s t u : State} {m n : Nat} (h : s.Consumes t m) (h' : t.Consumes u n) :
    s.Consumes u (m + n) where
  ready := h'.ready
  fit := h'.fit
  total := by rw [h'.total, h.total, Nat.add_assoc]
  available := by rw [← h.available, ← h'.available]; omega
  upcoming := by rw [h'.upcoming, h.upcoming, Nat.div_div_eq_div_mul, pow_add]
  source := h'.source.trans h.source
  pending := h'.pending ∘ h.pending

/-- A skip drops the lowest of the bits to come (R147). -/
theorem Bc.upcoming_skip {c : Bc} {n : Nat} (src : List Byte) (hn : n ≤ c.nbits) :
    (c.skip n).upcoming src = c.upcoming src / 2 ^ n := by
  have hmultiple : 2 ^ c.nbits = 2 ^ n * 2 ^ (c.nbits - n) := by rw [← pow_add, Nat.add_sub_cancel' hn]
  rw [Bc.upcoming, Bc.upcoming, hmultiple, Nat.mul_assoc, Nat.add_mul_div_left _ _ (Nat.two_pow_pos n)]
  simp only [Bc.skip, BitVec.toNat_ushiftRight, Nat.shiftRight_eq_div_pow]

/-- A read that the source can supply answers the next bits and consumes them (R147). -/
theorem bcReadBits_consumes {s : State} {count : BitVec 6} (hready : s.ChannelReady .read) (hcount : count.toNat ≤ 32)
    (havail : count.toNat ≤ s.available) (htotal : s.bc.total + count.toNat < 2 ^ 64) (hfit : s.countersFit = true) :
    ∃ t, exec (.bcReadBits count) s = .next t ∧ s.Consumes t count.toNat ∧
      t.port.responses = s.port.responses ++ [okValue (s.upcoming % 2 ^ count.toNat)] := by
  have haccepts : ¬s.bcRefuses .read count.toNat = true := by simp [hready.bcRefuses hcount]
  obtain ⟨hclosed, hopened, hmode, hwf⟩ := hready
  have henough := Bc.need_suffices havail
  have hpeek := Bc.peek_eq_upcoming (Bc.need count.toNat s.bc s.port.src).2 hcount henough
  have hskip := Bc.upcoming_skip (Bc.need count.toNat s.bc s.port.src).2 henough
  have hreads := (Bc.reads_need hcount s.bc s.port.src).trans (Bc.reads_skip henough)
  have hremain := Bc.need_available count.toNat s.bc s.port.src
  rw [Bc.upcoming_need hcount _ _ hwf hmode, ← State.upcoming_eq] at hpeek hskip
  obtain ⟨k, -, hsrc, -, -, htotal', -, -, -, -, -, hminimal⟩ := Bc.need_spec count.toNat s.port.src s.bc
  rw [execBcReadBits_of_need haccepts rfl henough, hpeek]
  generalize Bc.need count.toNat s.bc s.port.src = r at *
  have hwf' : (r.1.skip count.toNat).Wf := hreads.wf hwf hmode
  have hmode' : (r.1.skip count.toNat).mode = .read := hreads.mode.trans hmode
  have htotal : r.1.total + count.toNat < 2 ^ 64 := by omega
  obtain ⟨-, hbytes, hnbits⟩ := (Bc.wf_read_iff hmode').mp hwf'
  simp only [Bc.skip] at hbytes hnbits
  have hend := State.finish_channel (s := s) (c := r.1.skip count.toNat)
    (p := { s.port with
      src := r.2, responses := s.port.responses ++ [okValue (s.upcoming % 2 ^ count.toNat)] }) hfit htotal
    (show r.1.nbytes < 2 ^ 64 by omega)
  refine ⟨_, hend, ⟨⟨hclosed, hreads.opened.trans hopened, hmode', hwf'⟩, State.countersFit_of_finish hend, ?_, ?_,
    hskip, ?_, ?_⟩, rfl⟩
  · exact congrArg (· + count.toNat) htotal'
  · simp only [State.available, Bc.skip]
    omega
  · exact hsrc ▸ List.drop_suffix k s.port.src
  · simp only [Bc.skip]
    omega

/-- Reads that the source can supply answer consecutive fields of the bits to come (R150). -/
theorem execAll_bcReadBits_consumes : ∀ (counts : List (BitVec 6)) {s : State}, s.ChannelReady .read →
    (∀ c ∈ counts, c.toNat ≤ 32) → (counts.map BitVec.toNat).sum ≤ s.available →
    s.bc.total + (counts.map BitVec.toNat).sum < 2 ^ 64 → s.countersFit = true →
    ∃ t, execAll (counts.map .bcReadBits) s = .next t ∧ s.Consumes t (counts.map BitVec.toNat).sum ∧
      t.port.responses = s.port.responses ++ (splitFields (counts.map BitVec.toNat) s.upcoming).map okValue
  | [], s, hready, _, _, _, hfit => ⟨s, rfl, .refl hready hfit, (List.append_nil _).symm⟩
  | c :: counts, s, hready, hcounts, havail, htotal, hfit => by
    rw [List.map_cons, List.sum_cons] at havail htotal
    obtain ⟨hc, hrest⟩ := List.forall_mem_cons.mp hcounts
    obtain ⟨t, ht, hst, htresponses⟩ := bcReadBits_consumes hready hc (by omega) (by omega) hfit
    obtain ⟨u, hu, htu, huresponses⟩ := execAll_bcReadBits_consumes counts hst.ready hrest
      (by have := hst.available; omega) (by have := hst.total; omega) hst.fit
    refine ⟨u, ?_, hst.trans htu, ?_⟩
    · rw [List.map_cons, execAll_cons _ ht, hu]
    · rw [huresponses, htresponses, hst.upcoming, List.append_assoc]
      rfl

/-- Settles O31, by induction on the list of counts (`execAll_bcReadBits_consumes`). -/
theorem regroupingLaw : Obligations.RegroupingLaw := by
  intro counts s hready hcounts havail hroom hfit
  obtain ⟨htotal, -⟩ := hroom
  obtain ⟨t, ht, hconsumes, hresponses⟩ := execAll_bcReadBits_consumes counts hready hcounts havail (by omega) hfit
  exact ⟨t, ht, hresponses, hconsumes.total, hconsumes.upcoming⟩

end Sys2Proof.Machine
end

section

namespace Sys2Proof.Machine

/-! ### The bytes of a number and the number of bytes (R65 to R67) -/

theorem passes_passes (o : Order) (b : Byte) : passes o (passes o b) = b := by
  cases o with
  | lsbFirst => rfl
  | msbFirst => exact b.reverse_reverse_eq

theorem streamValue_append (o : Order) : ∀ bs cs : List Byte,
    streamValue o (bs ++ cs) = streamValue o bs + 2 ^ (8 * bs.length) * streamValue o cs
  | [], cs => by simp [streamValue]
  | b :: bs, cs => by
    rw [List.cons_append, streamValue, streamValue_append o bs cs, streamValue, List.length_cons, Nat.mul_succ, pow_add]
    ring

@[simp] theorem streamBytes_length (o : Order) (k x : Nat) : (streamBytes o k x).length = k := by simp [streamBytes]

/-- An endpoint reads back of a number the bits of the bytes that were put (R67). -/
theorem streamValue_streamBytes (o : Order) : ∀ k x : Nat, streamValue o (streamBytes o k x) = x % 2 ^ (8 * k)
  | 0, x => by simp [streamBytes, streamValue, Nat.mod_one]
  | k + 1, x => by
    rw [streamBytes_succ, streamValue, passes_passes, streamValue_streamBytes o k, BitVec.toNat_ofNat, Nat.mul_succ,
      Nat.add_comm (8 * k), pow_add, Nat.mod_mul]
    rfl

/-! ### Fields written in turn (R145, R152) -/

/-- What completed writes of `n` bits in all have done to the channel and the sink, the bits being those of `x` (R145):
the channel accepts the next write, and the bytes put with the bits now pending are the bits pending before with those
of `x` above them. -/
structure State.Produces (s t : State) (n x : Nat) (bytes : List Byte) : Prop where
  ready   : t.ChannelReady .write
  flushed : t.bc.flushed = false
  fit     : t.countersFit = true
  order   : t.bc.order = s.bc.order
  total   : t.bc.total = s.bc.total + n
  sink    : t.port.sink = s.port.sink ++ bytes
  count   : s.bc.nbits + n = 8 * bytes.length + t.bc.nbits
  bits    : s.bc.acc.toNat + 2 ^ s.bc.nbits * x =
    streamValue s.bc.order bytes + 2 ^ (8 * bytes.length) * t.bc.acc.toNat

theorem State.Produces.refl {s : State} (hready : s.ChannelReady .write) (hflushed : s.bc.flushed = false)
    (hfit : s.countersFit = true) : s.Produces s 0 0 [] :=
  ⟨hready, hflushed, hfit, rfl, rfl, (List.append_nil _).symm, by simp, by simp [streamValue]⟩

theorem State.Produces.trans {s t u : State} {m n x y : Nat} {bs cs : List Byte} (h : s.Produces t m x bs)
    (h' : t.Produces u n y cs) : s.Produces u (m + n) (x + 2 ^ m * y) (bs ++ cs) where
  ready := h'.ready
  flushed := h'.flushed
  fit := h'.fit
  order := h'.order.trans h.order
  total := by rw [h'.total, h.total, Nat.add_assoc]
  sink := by rw [h'.sink, h.sink, List.append_assoc]
  count := by
    have := h.count
    have := h'.count
    rw [List.length_append]
    omega
  bits := by
    have hbits' := h'.bits
    rw [h.order] at hbits'
    calc s.bc.acc.toNat + 2 ^ s.bc.nbits * (x + 2 ^ m * y)
        = s.bc.acc.toNat + 2 ^ s.bc.nbits * x + 2 ^ (s.bc.nbits + m) * y := by rw [pow_add]; ring
      _ = streamValue s.bc.order bs + 2 ^ (8 * bs.length) * (t.bc.acc.toNat + 2 ^ t.bc.nbits * y) := by
        rw [h.bits, h.count, pow_add]; ring
      _ = _ := by rw [hbits', streamValue_append, List.length_append, Nat.mul_add 8, pow_add]; ring

/-- The bits a writing channel holds after a write are few (R25, R145). -/
theorem Bc.joined_lt {c : Bc} (v : Word) {n : Nat} (hacc : c.acc.toNat < 2 ^ c.nbits) :
    c.joined v n < 2 ^ (c.nbits + n) := by
  have hv : v.toNat % 2 ^ n + 1 ≤ 2 ^ n := Nat.mod_lt _ (Nat.two_pow_pos n)
  calc c.joined v n < (v.toNat % 2 ^ n + 1) * 2 ^ c.nbits := by rw [Bc.joined, Nat.succ_mul]; omega
    _ ≤ 2 ^ n * 2 ^ c.nbits := Nat.mul_le_mul_right _ hv
    _ = 2 ^ (c.nbits + n) := by rw [← pow_add, Nat.add_comm]

/-- A writing channel has counted fewer bytes than bits, so the bits' counter alone needs room (R25 (c)). -/
theorem State.ChannelReady.room {s : State} {n : Nat} (hready : s.ChannelReady .write)
    (htotal : s.bc.total + n < 2 ^ 64) : s.bc.Room n := by
  obtain ⟨-, -, hmode, -, -, hwrite, -⟩ := hready
  obtain ⟨-, -, hnbytes⟩ := hwrite hmode
  exact ⟨htotal, by omega⟩

/-- A write of `count` bits of a value produces those bits (R145). -/
theorem bcWriteBits_produces {s : State} (value : Word) {count : BitVec 6} (hready : s.ChannelReady .write)
    (hflushed : s.bc.flushed = false) (hcount : count.toNat ≤ 32) (htotal : s.bc.total + 32 < 2 ^ 64)
    (hfit : s.countersFit = true) :
    ∃ t bytes, exec (.bcWriteBits value count) s = .next t ∧
      s.Produces t count.toNat (value.toNat % 2 ^ count.toNat) bytes := by
  have haccepts : ¬(s.bcRefuses .write count.toNat || s.bc.flushed) = true := by
    simp [hready.bcRefuses hcount, hflushed]
  have hexec := bcWriteBitsResult value count s hready hflushed hcount (hready.room htotal) hfit
  obtain ⟨hclosed, hopened, hmode, hwf⟩ := hready
  obtain ⟨hnbits, -⟩ := hwf.pending hmode
  have hwf' := Bc.wf_write params value count.toNat hwf hmode
  rw [Bc.write_eq value hwf hmode hcount] at hwf'
  have hjoined := Bc.joined_lt value (n := count.toNat) ((acc_shift_eq_zero _ _).mp hwf.left)
  let k := (s.bc.nbits + count.toNat) / 8
  let x := s.bc.joined value count.toNat
  have hdiv : x / 2 ^ (8 * k) < 2 ^ 64 :=
    Nat.lt_of_le_of_lt (Nat.div_le_self _ _) (Nat.lt_of_lt_of_le hjoined (Nat.pow_le_pow_right (by decide) (by omega)))
  refine ⟨_, streamBytes s.bc.order k x, hexec, ⟨hclosed, hopened, hmode, hwf'⟩, hflushed, ?_, rfl, rfl, rfl, ?_, ?_⟩
  · rw [exec, execBcWriteBits, if_neg haccepts] at hexec
    exact State.countersFit_of_finish hexec
  · rw [streamBytes_length]
    exact (Nat.div_add_mod _ 8).symm
  · rw [streamBytes_length, streamValue_streamBytes]
    dsimp only [State.respond_bc]
    change _ = x % _ + _ * (BitVec.ofNat 64 (x / _)).toNat
    rw [BitVec.toNat_ofNat, Nat.mod_eq_of_lt hdiv, Nat.mod_add_div, Nat.mul_comm]
    rfl

/-- The value of the fields of a list, the first lowest (R65). -/
def joinFields : List (Word × BitVec 6) → Nat
  | [] => 0
  | f :: rest => f.1.toNat % 2 ^ f.2.toNat + 2 ^ f.2.toNat * joinFields rest

/-- The number of bits of the fields of a list. -/
def fieldBits (fields : List (Word × BitVec 6)) : Nat := (fields.map fun f => f.2.toNat).sum

theorem fieldBits_cons (f : Word × BitVec 6) (fields : List (Word × BitVec 6)) :
    fieldBits (f :: fields) = f.2.toNat + fieldBits fields := rfl

/-- Completed writes of a list of fields produce the fields, one above the other (R145). -/
theorem execAll_bcWriteBits_produces : ∀ (fields : List (Word × BitVec 6)) {s : State}, s.ChannelReady .write →
    s.bc.flushed = false → (∀ f ∈ fields, f.2.toNat ≤ 32) → s.bc.total + fieldBits fields + 32 < 2 ^ 64 →
    s.countersFit = true →
    ∃ t bytes, execAll (fields.map fun f => .bcWriteBits f.1 f.2) s = .next t ∧
      s.Produces t (fieldBits fields) (joinFields fields) bytes
  | [], s, hready, hflushed, _, _, hfit => ⟨s, [], rfl, .refl hready hflushed hfit⟩
  | f :: fields, s, hready, hflushed, hfields, htotal, hfit => by
    rw [fieldBits_cons] at htotal ⊢
    obtain ⟨hf, hrest⟩ := List.forall_mem_cons.mp hfields
    obtain ⟨t, bs, ht, hst⟩ := bcWriteBits_produces f.1 hready hflushed hf (by omega) hfit
    obtain ⟨u, cs, hu, htu⟩ := execAll_bcWriteBits_produces fields hst.ready hst.flushed hrest
      (by have := hst.total; omega) hst.fit
    refine ⟨u, bs ++ cs, ?_, hst.trans htu⟩
    rw [List.map_cons, execAll_cons _ ht, hu]

/-- Fields cut out of a number that starts with a list's fields are those fields (R65, R150). -/
theorem splitFields_joinFields (rest : List Nat) (y : Nat) : ∀ fields : List (Word × BitVec 6),
    splitFields (fields.map (fun f => f.2.toNat) ++ rest) (joinFields fields + 2 ^ fieldBits fields * y) =
      fields.map (fun f => f.1.toNat % 2 ^ f.2.toNat) ++ splitFields rest y
  | [] => by simp [joinFields, fieldBits]
  | f :: fields => by
    have hpos := Nat.two_pow_pos f.2.toNat
    have hvalue := Nat.mod_lt f.1.toNat hpos
    have hsum : joinFields (f :: fields) + 2 ^ fieldBits (f :: fields) * y =
        f.1.toNat % 2 ^ f.2.toNat + 2 ^ f.2.toNat * (joinFields fields + 2 ^ fieldBits fields * y) := by
      rw [joinFields, fieldBits_cons, pow_add]
      ring
    rw [hsum, List.map_cons, List.cons_append, splitFields, Nat.add_mul_mod_self_left, Nat.mod_mod,
      Nat.add_mul_div_left _ _ hpos, Nat.div_eq_of_lt hvalue, Nat.zero_add, splitFields_joinFields rest y fields]
    rfl

/-! ### What is written is read back (R152) -/

/-- The bits that complete the last byte of `n`. -/
def padBits (n : Nat) : Nat := (8 - n % 8) % 8

theorem padBits_lt (n : Nat) : padBits n < 8 := Nat.mod_lt _ (by decide)

/-- A new channel with room in every other counter (R141). -/
theorem bcInit_ready {s : State} (mode : Mode) (order : Order) (hclosed : s.sessionOpen = false)
    (hfit : s.countersFit = true) :
    ∃ t, exec (.bcInit mode order) s = .next t ∧ t.bc = Bc.init mode order ∧ t.ChannelReady mode ∧
      t.countersFit = true ∧
      t.port = { s.port with responses := s.port.responses ++ [okValue 0] } := by
  obtain ⟨hinit, -⟩ := initCommandsCreateTheirUnits s hclosed
  obtain ⟨-, -, hrest⟩ := (State.countersFit_iff s).mp hfit
  exact ⟨_, hinit mode order, rfl, ⟨hclosed, rfl, rfl, Bc.wf_init mode order⟩,
    (State.countersFit_iff _).mpr ⟨Nat.two_pow_pos 64, Nat.two_pow_pos 64, hrest⟩, rfl⟩

/-- A flush puts the pending bits as a byte and commits (R160). -/
theorem bcFlush_puts {s : State} (hready : s.ChannelReady .write) (htotal : s.bc.total + 8 < 2 ^ 64)
    (hfit : s.countersFit = true) :
    ∃ t, exec .bcFlush s = .next t ∧
      t.port.sink = s.port.sink ++ streamBytes s.bc.order ((s.bc.nbits + 7) / 8) s.bc.acc.toNat ∧
      t.port.committed = t.port.sink.length := by
  obtain ⟨hwrite, -⟩ := bcFlushAndCloseResult s (hready.room htotal) hfit
  obtain ⟨hflush, -⟩ := hwrite hready
  exact ⟨_, hflush, rfl, rfl⟩

/-- What a new channel has written once it is flushed: the fields as the bits of whole bytes (R152, R160). -/
theorem execAll_written {s : State} (order : Order) (fields : List (Word × BitVec 6)) (hclosed : s.sessionOpen = false)
    (hfit : s.countersFit = true) (hfields : ∀ f ∈ fields, f.2.toNat ≤ 32) (htotal : fieldBits fields < 2 ^ 63) :
    ∃ t bytes,
      execAll (.bcInit .write order :: fields.map (fun f => .bcWriteBits f.1 f.2) ++ [.bcFlush]) s = .next t ∧
      t.port.sink = s.port.sink ++ bytes ∧ t.port.committed = t.port.sink.length ∧
      8 * bytes.length = fieldBits fields + padBits (fieldBits fields) ∧
      streamValue order bytes = joinFields fields := by
  obtain ⟨u, hu, hubc, huready, hufit, huport⟩ := bcInit_ready .write order hclosed hfit
  obtain ⟨hflushed, hempty, hnobits, hnothing, horder⟩ :
      u.bc.flushed = false ∧ u.bc.nbits = 0 ∧ u.bc.acc = 0 ∧ u.bc.total = 0 ∧ u.bc.order = order := by
    rw [hubc]
    exact ⟨rfl, rfl, rfl, rfl, rfl⟩
  obtain ⟨v, bs, hv, huv⟩ := execAll_bcWriteBits_produces fields huready hflushed hfields (by omega) hufit
  have hcount := huv.count
  have hbits := huv.bits
  have hvtotal := huv.total
  obtain ⟨t, ht, hsink, hcommitted⟩ := bcFlush_puts huv.ready (by omega) huv.fit
  obtain ⟨-, -, hmode, hwf⟩ := huv.ready
  have hacc := (acc_shift_eq_zero _ _).mp hwf.left
  obtain ⟨hnbits, -⟩ := hwf.pending hmode
  have hlast : v.bc.acc.toNat < 2 ^ (8 * ((v.bc.nbits + 7) / 8)) :=
    Nat.lt_of_lt_of_le hacc (Nat.pow_le_pow_right (by decide) (by omega))
  refine ⟨t, bs ++ streamBytes order ((v.bc.nbits + 7) / 8) v.bc.acc.toNat, ?_, ?_, hcommitted, ?_, ?_⟩
  · rw [List.cons_append, execAll_cons _ hu, execAll_append _ hv, execAll_cons _ ht]
    rfl
  · rw [hsink, huv.sink, huport, huv.order, horder, List.append_assoc]
  · rw [List.length_append, streamBytes_length, padBits]
    omega
  · rw [streamValue_append, streamValue_streamBytes, Nat.mod_eq_of_lt hlast, ← horder, ← hbits, hempty, hnobits]
    simp

/-- The counts a list of fields written and flushed is read back with: the fields' own, then the padding's (R152). -/
def readCounts (fields : List (Word × BitVec 6)) : List (BitVec 6) :=
  fields.map Prod.snd ++ [BitVec.ofNat 6 (padBits (fieldBits fields))]

theorem readCounts_toNat (fields : List (Word × BitVec 6)) : (readCounts fields).map BitVec.toNat =
    fields.map (fun f => f.2.toNat) ++ [padBits (fieldBits fields)] := by
  have hpad : padBits (fieldBits fields) < 2 ^ 6 := Nat.lt_of_lt_of_le (padBits_lt _) (by decide)
  simpa [readCounts] using hpad

theorem readCounts_reads (fields : List (Word × BitVec 6)) : (readCounts fields).map Instr.bcReadBits =
    fields.map (fun f => .bcReadBits f.2) ++ [.bcReadBits (BitVec.ofNat 6 (padBits (fieldBits fields)))] := by
  simp [readCounts, Function.comp_def]

theorem readCounts_sum (fields : List (Word × BitVec 6)) :
    ((readCounts fields).map BitVec.toNat).sum = fieldBits fields + padBits (fieldBits fields) := by
  rw [readCounts_toNat, List.sum_append, List.sum_singleton, fieldBits]

theorem readCounts_le (fields : List (Word × BitVec 6)) (hfields : ∀ f ∈ fields, f.2.toNat ≤ 32) :
    ∀ c ∈ readCounts fields, c.toNat ≤ 32 := by
  intro c hc
  rw [readCounts, List.mem_append, List.mem_singleton, List.mem_map] at hc
  rcases hc with ⟨f, hf, rfl⟩ | rfl
  · exact hfields f hf
  · have hpad := padBits_lt (fieldBits fields)
    rw [BitVec.toNat_ofNat]
    omega

/-- Reads of whole bytes from a channel with no pending bits leave what stands behind those bytes (R148). -/
theorem State.Consumes.source_eq {s t : State} {n : Nat} {bytes rest : List Byte} (h : s.Consumes t n)
    (hnone : s.bc.nbits = 0) (hsrc : s.port.src = bytes ++ rest) (hn : n = 8 * bytes.length) : t.port.src = rest := by
  have havailable := h.available
  have hpending := h.pending (by omega)
  have hsuffix := h.source
  rw [State.available, State.available, hnone, hsrc, List.length_append] at havailable
  rw [hsrc] at hsuffix
  exact (List.suffix_of_suffix_length_le hsuffix (List.suffix_append _ _) (by omega)).eq_of_length (by omega)

/-- Settles O32: the bytes written are the fields' bits (`execAll_written`), and fields read in turn are cut out of the
bits to come (`execAll_bcReadBits_consumes`). -/
theorem symmetryLaw : Obligations.SymmetryLaw := by
  intro order fields s hclosed hfit hfields hbits total
  have htotal : fieldBits fields < 2 ^ 63 := hbits
  obtain ⟨t, bytes, ht, hsink, hcommitted, hlength, hvalue⟩ :=
    execAll_written order fields hclosed hfit hfields htotal
  refine ⟨t, bytes, ht, hsink, hcommitted, fun s2 rest hclosed2 hfit2 hsrc => ?_⟩
  obtain ⟨u, hu, hubc, huready, hufit, huport⟩ := bcInit_ready .read order hclosed2 hfit2
  have husrc : u.port.src = bytes ++ rest := by rw [huport, hsrc]
  have hnone : u.bc.nbits = 0 := by rw [hubc]; rfl
  have hnothing : u.bc.total = 0 := by rw [hubc]; rfl
  have hpad := padBits_lt (fieldBits fields)
  have hupcoming : u.upcoming = joinFields fields +
      2 ^ fieldBits fields * (2 ^ padBits (fieldBits fields) * streamValue order rest) := by
    rw [State.upcoming, husrc, hubc, ← Nat.mul_assoc, ← pow_add, ← hlength, ← hvalue, ← streamValue_append]
    simp [Bc.init]
  have havailable : u.available = 8 * bytes.length + 8 * rest.length := by
    rw [State.available, hnone, husrc, List.length_append]
    omega
  obtain ⟨v, hv, huv, hresponses⟩ := execAll_bcReadBits_consumes (readCounts fields) huready
    (readCounts_le fields hfields) (by rw [readCounts_sum]; omega) (by rw [readCounts_sum]; omega) hufit
  rw [readCounts_toNat, hupcoming, splitFields_joinFields, huport] at hresponses
  refine ⟨v, ?_, ?_, huv.source_eq hnone husrc ((readCounts_sum fields).trans hlength.symm)⟩
  · rw [List.cons_append, execAll_cons _ hu]
    rwa [readCounts_reads] at hv
  · simpa [splitFields, Function.comp_def] using hresponses

end Sys2Proof.Machine
end

section

namespace Sys2Proof.Machine

/-! ### The two bit orders of a writing channel (R67, R146) -/

/-- The channel in MSB-first order (R67). -/
def Bc.msb (c : Bc) : Bc := { c with order := .msbFirst }

/-- An LSB-first channel's bytes, put in MSB-first order, are each bit-reversed; the channel is otherwise the same. -/
theorem Bc.emit_msb : ∀ (k : Nat) (c : Bc), c.order = .lsbFirst →
    Bc.emit k c.msb = ((Bc.emit k c).1.msb, (Bc.emit k c).2.map BitVec.reverse)
  | 0, _, _ => rfl
  | k + 1, c, horder => by
    have ih := Bc.emit_msb k { c with acc := c.acc >>> 8, nbits := c.nbits - 8, nbytes := c.nbytes + 1 } horder
    have hbyte : c.msb.ordered (c.acc.setWidth 8) = (c.ordered (c.acc.setWidth 8)).reverse := by
      rw [Bc.ordered_eq_passes, Bc.ordered_eq_passes, horder]
      rfl
    rw [Bc.emit, Bc.emit, List.map_cons, ← hbyte]
    have hchannel := congrArg Prod.fst ih
    have hbytes := congrArg Prod.snd ih
    exact Prod.ext hchannel (congrArg (c.msb.ordered _ :: ·) hbytes)

theorem Bc.write_msb {c : Bc} (v : Word) (n : Nat) (horder : c.order = .lsbFirst) :
    c.msb.write params v n = ((c.write params v n).1.msb, (c.write params v n).2.map BitVec.reverse) := by
  have haccept : c.msb.accept params v n = (c.accept params v n).msb := by
    simp only [Bc.accept, Bc.valueBits_params, Bc.msb]
  rw [Bc.write, haccept]
  exact Bc.emit_msb _ _ horder

/-- The commands of a writing channel (R144, R155, R160, R163). -/
def WritingCommand (i : Instr) : Prop :=
  (∃ v c, i = .bcWriteBits v c) ∨ i = .bcAlign ∨ i = .bcFlush ∨ i = .bcClose

/-- A state with an LSB-first writing channel that has put some bytes after `sink`, and the state with the same channel
in MSB-first order, those bytes bit-reversed (R146). -/
def State.MsbTwin (sink : List Byte) (s u : State) : Prop :=
  s.bc.mode = .write ∧ s.bc.order = .lsbFirst ∧ ∃ bytes, s.port.sink = sink ++ bytes ∧
    u = { s with bc := s.bc.msb, port := { s.port with sink := sink ++ bytes.map BitVec.reverse } }

/-- Two outcomes that are twins: a command completes in both states or is stopped in the first. -/
def TwinEnds (sink : List Byte) (o o' : Host.Outcome State Fault Refusal) : Prop :=
  ∀ t, o = .next t → ∃ v, o' = .next v ∧ t.MsbTwin sink v

theorem TwinEnds.ite {sink : List Byte} {c : Prop} [Decidable c] {a a' b b' : Host.Outcome State Fault Refusal}
    (ha : TwinEnds sink a a') (hb : TwinEnds sink b b') :
    TwinEnds sink (if c then a else b) (if c then a' else b') := by
  split
  · exact ha
  · exact hb

section
variable {sink : List Byte} {s u : State} (h : s.MsbTwin sink u)
include h

/-- The checks of the twins are the same (R140, R144, R155). -/
theorem State.MsbTwin.checks : u.bcClosed = s.bcClosed ∧ (∀ m n, u.bcRefuses m n = s.bcRefuses m n) ∧
    u.bc.mode = .write ∧ s.bc.mode = .write ∧ u.bc.flushed = s.bc.flushed ∧ u.bc.padding = s.bc.padding := by
  obtain ⟨hmode, -, bytes, -, rfl⟩ := h
  exact ⟨rfl, fun _ _ => rfl, hmode, hmode, rfl, rfl⟩

/-- A change of the twins' channels that looks at neither the mode nor the order. -/
theorem State.MsbTwin.setChannel (f : Bc → Bc) (hmode : (f s.bc).mode = s.bc.mode)
    (horder : (f s.bc).order = s.bc.order) (hmsb : f s.bc.msb = (f s.bc).msb) :
    ({ s with bc := f s.bc } : State).MsbTwin sink { u with bc := f u.bc } := by
  obtain ⟨hmode', horder', bytes, hsink, rfl⟩ := h
  refine ⟨hmode.trans hmode', horder.trans horder', bytes, hsink, ?_⟩
  rw [hmsb]

/-- A write to each of the twins (R145). -/
theorem State.MsbTwin.putChannel (v : Word) (n : Nat) :
    (s.putChannel (s.bc.write params v n)).MsbTwin sink (u.putChannel (u.bc.write params v n)) := by
  obtain ⟨hmode, horder, bytes, hsink, rfl⟩ := h
  obtain ⟨-, -, -, -, hmode', horder', -⟩ := Bc.write_spec params s.bc v n
  refine ⟨hmode'.trans hmode, horder'.trans horder, bytes ++ (s.bc.write params v n).2, ?_, ?_⟩
  · rw [State.putChannel_port, hsink, List.append_assoc]
  · dsimp only
    rw [Bc.write_msb v n horder, List.map_append, ← List.append_assoc]
    rfl

theorem State.MsbTwin.alignWrite :
    (s.putChannel (s.bc.alignWrite params)).MsbTwin sink (u.putChannel (u.bc.alignWrite params)) := by
  obtain ⟨-, -, -, -, -, hpadding⟩ := h.checks
  rw [Bc.alignWrite, Bc.alignWrite, hpadding]
  exact h.putChannel 0 s.bc.padding

/-- A commit of the twins: they have put as many bytes (R63). -/
theorem State.MsbTwin.sinkFlush : s.sinkFlush.MsbTwin sink u.sinkFlush := by
  obtain ⟨hmode, horder, bytes, hsink, rfl⟩ := h
  refine ⟨hmode, horder, bytes, hsink, ?_⟩
  simp [State.sinkFlush, hsink]

theorem State.MsbTwin.bcFlush : (s.bcFlush params).MsbTwin sink (u.bcFlush params) :=
  h.alignWrite.sinkFlush.setChannel (fun c => { c with flushed := true }) rfl rfl rfl

theorem State.MsbTwin.respond (r : Response) : (s.respond r).MsbTwin sink (u.respond r) := by
  obtain ⟨hmode, horder, bytes, hsink, rfl⟩ := h
  exact ⟨hmode, horder, bytes, hsink, rfl⟩

theorem State.MsbTwin.misuse (op : BitVec 8) : TwinEnds sink (.next (s.misuse op)) (.next (u.misuse op)) := by
  rintro t ⟨⟩
  refine ⟨_, rfl, ?_⟩
  obtain ⟨hmode, horder, bytes, hsink, rfl⟩ := h
  exact ⟨hmode, horder, bytes, hsink, rfl⟩

theorem State.MsbTwin.ok_finish (r0 r1 : Nat) : TwinEnds sink (s.ok r0 r1).finish (u.ok r0 r1).finish := by
  intro t ht
  obtain ⟨hfit, rfl⟩ := State.finish_next.mp ht
  refine ⟨_, State.finish_of_fit ?_, h.respond _⟩
  obtain ⟨-, -, bytes, -, rfl⟩ := h
  exact hfit

/-- A writing command, in each of the twins. -/
theorem exec_twins {i : Instr} (hi : WritingCommand i) :
    TwinEnds sink (exec i s) (exec i u) := by
  obtain ⟨hclosed, hrefuses, hmode, hmode', hflushed, hpadding⟩ := h.checks
  rcases hi with ⟨v, c, rfl⟩ | rfl | rfl | rfl
  · rw [exec, execBcWriteBits, exec, execBcWriteBits, hrefuses, hflushed]
    exact .ite (h.misuse 0x11) ((h.putChannel v c.toNat).ok_finish 0 0)
  · rw [exec, execBcAlign, exec, execBcAlign, hclosed, hmode, hmode', hflushed, hpadding]
    exact .ite (h.misuse 0x14) (.ite (h.misuse 0x14) (h.alignWrite.ok_finish s.bc.padding 0))
  · rw [exec, execBcFlush, exec, execBcFlush, hrefuses, hpadding]
    exact .ite (h.misuse 0x15) (h.bcFlush.ok_finish s.bc.padding 0)
  · rw [exec, execBcClose, exec, execBcClose, hclosed, hmode, hmode', hflushed]
    refine .ite (h.misuse 0x16) (State.MsbTwin.ok_finish ?_ 0 0)
    refine State.MsbTwin.setChannel ?_ (fun c => { c with opened := false }) rfl rfl rfl
    split
    · exact h.bcFlush
    · exact h

end

/-- Writing commands keep the twins twins. -/
theorem execAll_twins {sink : List Byte} : ∀ (commands : List Instr) {s u : State}, s.MsbTwin sink u →
    (∀ i ∈ commands, WritingCommand i) →
    TwinEnds sink (execAll commands s) (execAll commands u)
  | [], s, u, h, _ => by
    rintro t ⟨⟩
    exact ⟨u, rfl, h⟩
  | i :: rest, s, u, h, hcommands => by
    obtain ⟨hi, hrest⟩ := List.forall_mem_cons.mp hcommands
    intro t ht
    obtain ⟨s', hs, hrest'⟩ := execAll_cons_next ht
    obtain ⟨u', hu, h'⟩ := exec_twins h hi s' hs
    rw [execAll_cons _ hu]
    exact execAll_twins rest h' hrest t hrest'

/-- Settles O33: the two channels stay twins, command by command (`exec_twins`). -/
theorem msbFirstReversesBytes : Obligations.MsbFirstReversesBytes := by
  intro commands s t hcommands hmode horder ht
  have hstart : s.MsbTwin s.port.sink { s with bc := { s.bc with order := .msbFirst } } :=
    ⟨hmode, horder, [], (List.append_nil _).symm, by rw [List.map_nil, List.append_nil]; rfl⟩
  obtain ⟨u, hu, -, -, bytes, hsink, rfl⟩ := execAll_twins commands hstart hcommands t ht
  exact ⟨bytes, _, hu, hsink, rfl, rfl, rfl⟩

end Sys2Proof.Machine
end

section

namespace Sys2Proof.Machine

/-! ### The periodic extension (R175, R176) -/

/-- The window's positions from `start` on that the history still holds (R30) have the bytes `f 0, f 1, …`. -/
def Sw.HoldsFrom (w : Sw) (start : Nat) (f : Nat → Byte) : Prop :=
  ∀ j, start + j < w.cursor → w.cursor ≤ start + j + w.cap →
    w.win.get Config.freeByte ((start + j) % w.cap) = f j

/-- The periodic extension of the window's last `d` bytes: byte `j` stands `d - j mod d` behind the cursor. -/
def Sw.extension (w : Sw) (d j : Nat) : Byte := w.win.get Config.freeByte ((w.cursor - d + j % d) % w.cap)

theorem Sw.extension_periodic (w : Sw) (d : Nat) : Function.Periodic (w.extension d) d := fun j => by
  rw [Sw.extension, Nat.add_mod_right, Sw.extension]

/-- The last `d` bytes begin their own extension. -/
theorem Sw.holdsFrom_extension (w : Sw) {d : Nat} (hd : d ≤ w.cursor) :
    w.HoldsFrom (w.cursor - d) (w.extension d) := by
  intro j hj _
  have hfirst : j < d := by omega
  rw [Sw.extension, Nat.mod_eq_of_lt hfirst]

section
variable {w : Sw} {start d : Nat} {f : Nat → Byte}

/-- A push keeps the bytes that stay in the history, and appends its own. -/
theorem Sw.HoldsFrom.push (h : w.HoldsFrom start f) (hwf : w.win.wf = true) :
    (w.push (f (w.cursor - start))).HoldsFrom start f := by
  intro j hj hkept
  simp only [Sw.push] at hj hkept ⊢
  by_cases hnew : start + j = w.cursor
  · rw [hnew, Mem.get_set_same _ _ _ hwf, ← hnew, Nat.add_sub_cancel_left]
  · have hcell : (w.cursor - (w.cursor - (start + j))) % w.cap ≠ w.cursor % w.cap :=
      window_cells_distinct (by omega) (by omega) (by omega)
    rw [Nat.sub_sub_self (by omega)] at hcell
    rw [Mem.get_set_other _ _ hcell hwf]
    exact h j (by omega) (by omega)

/-- The byte `d` behind the cursor is the one that continues a sequence of period `d`. -/
theorem Sw.HoldsFrom.back_eq (h : w.HoldsFrom start f) (hperiod : Function.Periodic f d) (hd : 1 ≤ d)
    (hcap : d ≤ w.cap) (hcursor : start + d ≤ w.cursor) : w.back d = f (w.cursor - start) := by
  obtain ⟨j, hj⟩ := Nat.exists_eq_add_of_le hcursor
  have hback : w.cursor - d = start + j := by omega
  have hnext : w.cursor - start = j + d := by omega
  rw [Sw.back, hback, hnext, hperiod]
  exact h j (by omega) (by omega)

/-- The copy loop continues a sequence whose period is the distance (R175). -/
theorem Sw.HoldsFrom.copyLoop (hperiod : Function.Periodic f d) (hd : 1 ≤ d) : ∀ (l : Nat) {w : Sw},
    w.HoldsFrom start f → w.win.wf = true → d ≤ w.cap → start + d ≤ w.cursor →
      (Sw.copyLoop d l w).HoldsFrom start f
  | 0, _, h, _, _, _ => h
  | l + 1, w, h, hwf, hcap, hcursor => by
    rw [Sw.copyLoop, h.back_eq hperiod hd hcap hcursor]
    exact Sw.HoldsFrom.copyLoop hperiod hd l (h.push hwf) (Sw.wf_push _ _ hwf) hcap
      (Nat.le_succ_of_le hcursor)

/-- A copy moves the cursor and writes the memory. -/
theorem Sw.copyLoop_eq (d l : Nat) (w : Sw) :
    Sw.copyLoop d l w = { w with win := (Sw.copyLoop d l w).win, cursor := w.cursor + l } := by
  have hcap := Sw.copyLoop_cap d l w
  have hcursor := Sw.copyLoop_cursor d l w
  generalize Sw.copyLoop d l w = r at *
  cases r
  subst hcap hcursor
  rfl

/-- A copy writes the cells its bytes go to, and no other. -/
theorem Sw.copyLoop_get_other (d : Nat) {a : Nat} : ∀ (l : Nat) {w : Sw}, w.win.wf = true →
    (∀ i, i < l → a ≠ (w.cursor + i) % w.cap) →
      (Sw.copyLoop d l w).win.get Config.freeByte a = w.win.get Config.freeByte a
  | 0, _, _, _ => rfl
  | l + 1, w, hwf, ha => by
    have hrest : ∀ i, i < l → a ≠ (w.cursor + 1 + i) % w.cap := fun i hi => by
      rw [Nat.add_right_comm]
      exact ha (i + 1) (Nat.succ_lt_succ hi)
    rw [Sw.copyLoop, Sw.copyLoop_get_other d l (Sw.wf_push _ _ hwf) hrest]
    exact Mem.get_set_other _ _ (ha 0 (Nat.succ_pos l)) hwf

/-- Byte `i` that a copy appends, while the history still holds it (R175). -/
theorem Sw.copyLoop_get_appended {l i : Nat} (hwf : w.win.wf = true) (hreach : w.reaches d = true) (hi : i < l)
    (hkept : l ≤ i + w.cap) :
    (Sw.copyLoop d l w).win.get Config.freeByte ((w.cursor + i) % w.cap) = w.extension d i := by
  obtain ⟨hd, hhist⟩ := (Sw.reaches_iff w d).mp hreach
  have hholds := Sw.HoldsFrom.copyLoop (w.extension_periodic d) (Nat.pos_of_ne_zero hd) l
    (w.holdsFrom_extension (by omega)) hwf (by omega) (by omega)
  have happended := hholds (i + d) (by rw [Sw.copyLoop_cursor]; omega)
    (by rw [Sw.copyLoop_cursor, Sw.copyLoop_cap]; omega)
  have hposition : w.cursor - d + (i + d) = w.cursor + i := by omega
  rwa [hposition, Sw.copyLoop_cap, w.extension_periodic d] at happended

end

/-! ### The window's commands (R173, R175) -/

section
variable {s : State}

theorem State.WindowReady.swRefuses (hready : s.WindowReady) : ¬s.swRefuses = true := by
  simp [State.swRefuses, hready]

theorem State.raiseDirect_badDistance (s : State) (d : Word) : s.raiseDirect (badDistance d.toNat) =
    { s with err := { kind := 3, unit := 2, info := d } }.respond (errorResponse 3 d) := by
  rw [State.raiseDirect, State.recordFault, badDistance, BitVec.ofNat_toNat, BitVec.setWidth_eq]
  rfl

/-- The check of `SW_GET` and `SW_COPY`, as R173 and R175 write it. -/
theorem Sw.reaches_iff_one_le (w : Sw) (d : Nat) : w.reaches d = true ↔ 1 ≤ d ∧ d ≤ min w.cursor w.cap := by
  rw [Sw.reaches_iff, Nat.one_le_iff_ne_zero]

/-- A copy within reach that stays inside the cursor's range. -/
theorem execSwCopy_of_reaches {distance length : Word} (hready : s.WindowReady)
    (hreach : s.sw.reaches distance.toNat = true) (hcursor : s.sw.cursor + length.toNat < 2 ^ 64)
    (hfit : s.countersFit = true) :
    exec (.swCopy distance length) s = .next
      ({ s with sw := Sw.copyLoop distance.toNat length.toNat s.sw }.respond (okResponse 0 0)) := by
  rw [exec, execSwCopy, if_neg hready.swRefuses, if_pos hreach]
  refine State.finish_of_fit ?_
  obtain ⟨htotal, hnbytes, -, hrest⟩ := (State.countersFit_iff s).mp hfit
  refine (State.countersFit_iff _).mpr ⟨htotal, hnbytes, ?_, hrest⟩
  rwa [State.ok_sw, Sw.copyLoop_cursor]

end

/-- Settles O36: the copy loop continues the periodic sequence that the last `distance` bytes begin
(`Sw.HoldsFrom.copyLoop`). -/
theorem swCopyResult : Obligations.SwCopyResult := by
  intro distance length s hready
  rw [← Sw.reaches_iff_one_le]
  refine ⟨fun hreach hwf hcursor hfit => ?_, fun hfar => ?_⟩
  · refine ⟨(Sw.copyLoop distance.toNat length.toNat s.sw).win, ?_, Sw.wf_copyLoop _ _ _ hwf,
      fun i hi hkept => Sw.copyLoop_get_appended hwf hreach hi hkept,
      fun a ha => Sw.copyLoop_get_other _ _ hwf ha⟩
    rw [execSwCopy_of_reaches hready hreach hcursor hfit, ← Sw.copyLoop_eq]
  · rw [exec, execSwCopy, if_neg hready.swRefuses, if_neg hfar, State.raiseDirect_badDistance]

/-- Settles O35, by the distance check (`Sw.reaches_iff_one_le`). -/
theorem swGetResult : Obligations.SwGetResult := by
  intro offset s hready
  simp only [← Sw.reaches_iff_one_le, exec, execSwGet, if_neg hready.swRefuses, Sw.get]
  split
  · simp only [State.ok, BitVec.ofNat_toNat]
    rfl
  · simp only [State.raiseDirect_badDistance]

end Sys2Proof.Machine
end

section

namespace Sys2Proof.Machine

/-- Settles O22: each premise fails a check of the commands it names, and a command that fails one records its opcode. -/
theorem closedUnitsRefuseCommands : Obligations.ClosedUnitsRefuseCommands := by
  intro s hclosed
  simp only [List.mem_cons, List.not_mem_nil, or_false, forall_eq_or_imp, forall_eq]
  refine ⟨fun hcap byte offset distance length => ?_, fun hopened last index => ?_, fun hlast last => ?_,
    fun slot hvalid symbol => ?_, fun hchannel slot => ?_, fun last cap => ?_⟩
  · have hrefuses : s.swRefuses = true := by simp [State.swRefuses, hcap]
    exact ⟨if_pos hrefuses, if_pos hrefuses, if_pos hrefuses⟩
  · have hrefuses : s.mfRefuses = true := by simp [State.mfRefuses, hopened]
    exact ⟨if_pos (by rw [hrefuses, Bool.true_or]), if_pos hrefuses⟩
  · exact if_pos (by rw [hlast, Bool.or_true])
  · exact ⟨if_pos (by simp [hvalid]), if_pos (by simp [hvalid])⟩
  · exact if_pos (by rcases hchannel with h | h <;> simp [h])
  · exact if_neg (by simp [hclosed])

end Sys2Proof.Machine
end

section

namespace Sys2Proof.Machine

/-! ### Every bit string begins with a code (R209, R215) -/

/-- The Kraft equality at the longest length in use: the codes fill `2^maxlen` (R209). -/
theorem codes_fill {limit : Nat} {len : List Nat} (hle : ∀ l ∈ len, l ≤ limit) (hk : kraftSum limit len = 2 ^ limit)
    (h0 : maxLen len ≠ 0) : shorterCodes len (maxLen len) + len.count (maxLen len) = 2 ^ maxLen len := by
  have hmax := (maxLen_le_iff len _).mp (Nat.le_refl _)
  have hlimit : maxLen len ≤ limit := (maxLen_le_iff len _).mpr hle
  have hscale : (len.map fun x => if x ≠ 0 ∧ x ≤ maxLen len then 2 ^ (maxLen len - x) else 0).sum *
      2 ^ (limit - maxLen len) = kraftSum limit len := by
    rw [kraftSum, ← List.sum_map_mul_right]
    refine congrArg List.sum (List.map_congr_left fun x hx => ?_)
    have hxmax := hmax x hx
    by_cases hx0 : x = 0
    · simp [hx0]
    · rw [if_pos ⟨hx0, hxmax⟩, if_neg hx0, ← pow_add]
      congr 1
      omega
  have hpow : 2 ^ limit = 2 ^ maxLen len * 2 ^ (limit - maxLen len) := by rw [← pow_add, Nat.add_sub_cancel' hlimit]
  rw [atMostCodes_eq h0, hk, hpow] at hscale
  exact Nat.eq_of_mul_eq_mul_right (Nat.two_pow_pos _) hscale

/-- A bit string that begins with no code of 1 to `l` bits is behind all of them. -/
theorem after_codes_of_no_match {len : List Nat} {n v : Nat} : ∀ {l : Nat}, 1 ≤ l → l ≤ n →
    (∀ i, 1 ≤ i → i ≤ l →
      ¬(shorterCodes len i ≤ v / 2 ^ (n - i) ∧ v / 2 ^ (n - i) < shorterCodes len i + len.count i)) →
    shorterCodes len l + len.count l ≤ v / 2 ^ (n - l) := by
  intro l h1
  induction l, h1 using Nat.le_induction with
  | base =>
    intro _ hno
    have hfirst : shorterCodes len 1 = 0 := by rw [shorterCodes_succ, shorterCodes_zero]; rfl
    have hmiss := hno 1 (Nat.le_refl 1) (Nat.le_refl 1)
    rw [hfirst] at hmiss ⊢
    have := Nat.zero_le (v / 2 ^ (n - 1))
    omega
  | succ l hl ih =>
    intro hn hno
    have hbefore := ih (by omega) fun i hi hil => hno i hi (by omega)
    have hhalf : v / 2 ^ (n - l) = v / 2 ^ (n - (l + 1)) / 2 := by
      rw [Nat.div_div_eq_div_mul, ← pow_succ, show n - (l + 1) + 1 = n - l by omega]
    have hnext : shorterCodes len (l + 1) = (shorterCodes len l + len.count l) * 2 := by
      rw [shorterCodes_succ, if_neg (by omega), lenCount]
    have := hno (l + 1) (by omega) (Nat.le_refl _)
    omega

/-- Over lengths that fill the code space every bit string of the longest length begins with a code (R209 (d)). -/
theorem exists_code_match {limit v : Nat} {len : List Nat} (hle : ∀ l ∈ len, l ≤ limit)
    (hk : kraftSum limit len = 2 ^ limit) (h0 : maxLen len ≠ 0) (hv : v < 2 ^ maxLen len) :
    ∃ l, 1 ≤ l ∧ l ≤ maxLen len ∧ shorterCodes len l ≤ v / 2 ^ (maxLen len - l) ∧
      v / 2 ^ (maxLen len - l) < shorterCodes len l + len.count l := by
  by_contra hno
  have hbehind := after_codes_of_no_match (n := maxLen len) (Nat.pos_of_ne_zero h0) (Nat.le_refl _)
    fun l h1 hl hmatch => hno ⟨l, h1, hl, hmatch⟩
  rw [codes_fill hle hk h0, Nat.sub_self, pow_zero, Nat.div_one] at hbehind
  omega

/-- Among the symbols of one length there is one with `k` before it, if there are more than `k`. -/
theorem exists_split_of_lt_count {l : Nat} : ∀ {len : List Nat} {k : Nat}, k < len.count l →
    ∃ pre suf, len = pre ++ l :: suf ∧ pre.count l = k
  | [], _, hk => by simp at hk
  | x :: rest, k, hk => by
    by_cases hx : x = l
    · subst hx
      cases k with
      | zero => exact ⟨[], rest, rfl, rfl⟩
      | succ k =>
        obtain ⟨pre, suf, hrest, hcount⟩ := exists_split_of_lt_count (len := rest) (k := k) (by simpa using hk)
        exact ⟨x :: pre, suf, by rw [hrest]; rfl, by simp [hcount]⟩
    · obtain ⟨pre, suf, hrest, hcount⟩ := exists_split_of_lt_count (len := rest)
        (by simpa [List.count_cons, hx] using hk)
      exact ⟨x :: pre, suf, by rw [hrest]; rfl, by simp [hx, hcount]⟩

/-- The symbol of a code: the one of the code's length with as many of that length before it (R208). -/
theorem exists_symbol_of_code {l k : Nat} {len : List Nat} (h0 : l ≠ 0) (hk : k < len.count l) :
    ∃ symbol, symbol < len.length ∧ len.getD symbol 0 = l ∧ canonicalCode len symbol = shorterCodes len l + k := by
  obtain ⟨pre, suf, rfl, rfl⟩ := exists_split_of_lt_count hk
  exact ⟨pre.length, by simp, by simp, canonicalCode_split pre suf h0⟩

theorem revBits_revBits (n x : Nat) : revBits n (revBits n x) = x % 2 ^ n := by
  refine Nat.eq_of_testBit_eq fun i => ?_
  rw [revBits_testBit, revBits_testBit, Nat.testBit_mod_two_pow]
  by_cases hi : i < n
  · simp [hi, show n - 1 - i < n by omega, show n - 1 - (n - 1 - i) = i by omega]
  · simp [hi]

/-- The first `l` of `n` bits, the first of them lowest, are the upper `l` bits of the code value (R104). -/
theorem revBits_div {l n : Nat} (x : Nat) (h : l ≤ n) :
    revBits n (x % 2 ^ n) / 2 ^ (n - l) = revBits l (x % 2 ^ l) := by
  refine (revBits_of_codeField h (revBits_lt n _) ?_).symm
  rw [codeField_eq_revBits, revBits_revBits, Nat.mod_mod]

/-- What a valid complete table says of the bits to come: they begin with the code of a symbol (R209 (d), R215). -/
theorem Table.exists_next_symbol {t : Table} (hvalid : t.valid = true) (hwf : t.Wf) (hcomplete : t.Complete) (x : Nat) :
    ∃ symbol l, symbol < t.n ∧ t.len.getD symbol 0 = l ∧ l ≠ 0 ∧ l ≤ t.maxlen ∧
      x % 2 ^ l = codeField l (t.code.getD symbol 0) ∧ t.symbolAt l (revBits l (x % 2 ^ l)) = some symbol := by
  obtain ⟨hn, -, -, hlimit, -, hmaxlen, -⟩ := hwf hvalid
  obtain ⟨hused, hlens, hkraft, hcodes⟩ := hcomplete
  have h0 : maxLen t.len ≠ 0 := by
    intro hzero
    have hall := (maxLen_le_iff t.len 0).mp (Nat.le_of_eq hzero)
    rw [List.filter_eq_nil_iff.mpr fun l hl => by simpa using hall l hl] at hused
    simp at hused
  obtain ⟨l, h1, hl, hlo, hhi⟩ := exists_code_match hlens hkraft h0 (revBits_lt (maxLen t.len) (x % 2 ^ maxLen t.len))
  rw [revBits_div x hl] at hlo hhi
  obtain ⟨symbol, hsymbol, hlen, hcode⟩ := exists_symbol_of_code (len := t.len) (l := l) (by omega)
    (k := revBits l (x % 2 ^ l) - shorterCodes t.len l) (by omega)
  replace hcode : canonicalCode t.len symbol = revBits l (x % 2 ^ l) := by omega
  have hentry : t.code.getD symbol 0 = revBits l (x % 2 ^ l) := by
    rw [hcodes, List.getD_eq_getElem _ _ (by simpa using hsymbol), List.getElem_map, List.getElem_range, hcode]
  refine ⟨symbol, l, hn ▸ hsymbol, hlen, by omega, hmaxlen ▸ hl, ?_, ?_⟩
  · rw [hentry, codeField_eq_revBits, revBits_revBits, Nat.mod_mod]
  · rw [← hcode]
    exact Table.symbolAt_code hsymbol hlen (by omega) (by have := (maxLen_le_iff t.len t.limit).mpr hlens; omega)

/-! ### How a look-up ends (R214 to R216) -/

/-- A look-up consumes no bit; where it finds no symbol, either the bits to come are fewer than the length it got to,
or no length matched. -/
theorem Table.lookupFrom_ends (t : Table) : ∀ (k m : Nat) (c : Bc) (src : List Byte), m + k ≤ 16 → c.Wf →
    c.mode = .read →
    (t.lookupFrom params k m c src).1.1.total = c.total ∧
      (t.lookupFrom params k m c src).1.1.upcoming (t.lookupFrom params k m c src).1.2 = c.upcoming src ∧
      (∀ missing, (t.lookupFrom params k m c src).2 = .short missing → c.nbits + 8 * src.length + 1 < m + k) ∧
      ∀ bits, (t.lookupFrom params k m c src).2 = .noCode bits →
        ∀ i, m ≤ i → i < m + k → t.symbolAt i (revBits i (c.upcoming src % 2 ^ i)) = none
  | 0, _, _, _, _, _, _ => ⟨rfl, rfl, fun _ h => (by cases h), fun _ _ i _ _ => by omega⟩
  | k + 1, m, c, src, hmk, hwf, hmode => by
    have hm : m ≤ 32 := by omega
    have hreads := Bc.reads_need hm c src
    have hupcoming := Bc.upcoming_need hm src c hwf hmode
    have havail := Bc.need_available m c src
    have hshort : (Bc.need m c src).1.nbits < m → c.nbits + 8 * src.length < m := fun h => by
      by_contra hge
      have := Bc.need_suffices (Nat.not_lt.mp hge)
      omega
    rw [Table.lookupFrom]
    split
    · rename_i hnbits
      exact ⟨Bc.need_total m c src, hupcoming, fun _ _ => by have := hshort hnbits; omega, fun _ h => by cases h⟩
    · rename_i henough
      rw [Bc.peek_eq_upcoming (Bc.need m c src).2 hm (Nat.not_lt.mp henough), hupcoming]
      split
      · exact ⟨Bc.need_total m c src, hupcoming, fun _ h => (by cases h), fun _ h => by cases h⟩
      · rename_i hnone
        obtain ⟨htotal, hnext, hfew, hno⟩ := Table.lookupFrom_ends t k (m + 1) _ (Bc.need m c src).2 (by omega)
          (hreads.wf hwf hmode) (hreads.mode.trans hmode)
        rw [hupcoming] at hno
        refine ⟨htotal.trans (Bc.need_total m c src), hnext.trans hupcoming, fun missing h => ?_,
          fun bits h i hi hik => ?_⟩
        · have := hfew missing h
          omega
        · rcases Nat.eq_or_lt_of_le hi with rfl | hlt
          · exact hnone
          · exact hno bits h i hlt (by omega)

/-- Over a complete table a look-up does not end without a code (R215). -/
theorem Table.lookup_ne_noCode {t : Table} {c : Bc} {src : List Byte} (hvalid : t.valid = true) (hwf : t.Wf)
    (hcomplete : t.Complete) (hc : c.Wf) (hmode : c.mode = .read) (hmax : t.maxlen ≤ 15) (bits : Nat) :
    (t.lookup params c src).2 ≠ .noCode bits := by
  intro hno
  obtain ⟨symbol, l, -, -, h0, hl, -, hfound⟩ := Table.exists_next_symbol hvalid hwf hcomplete (c.upcoming src)
  obtain ⟨-, -, -, hnone⟩ := t.lookupFrom_ends t.maxlen 1 c src (by omega) hc hmode
  rw [hnone bits hno l (by omega) (by omega)] at hfound
  cases hfound

/-- The longest length of a valid table (R32). -/
theorem Table.maxlen_le {t : Table} (hvalid : t.valid = true) (hwf : t.Wf) : t.maxlen ≤ 15 := by
  obtain ⟨-, -, -, hlimit, hlens, hmaxlen, -⟩ := hwf hvalid
  rw [hmaxlen, maxLen_le_iff]
  exact fun l hl => Nat.le_trans (of_decide_eq_true (List.all_eq_true.mp hlens l hl)) hlimit

/-- The checks of `HC_DECODE` let a valid slot and a reading channel pass (R190, R214). -/
theorem State.ChannelReady.accepts_hcDecode {s : State} {slot : BitVec 4} (hready : s.ChannelReady .read)
    (hslot : slot.toNat ≤ 4) (hvalid : (s.table slot.toNat).valid = true) :
    ¬(s.hcRefuses slot.toNat || !(s.table slot.toNat).valid || !s.bc.opened || s.bc.mode != .read) = true := by
  obtain ⟨hclosed, hopened, hmode, -⟩ := hready
  simp [State.hcRefuses, hclosed, hslot, hvalid, hopened, hmode]

/-- Settles O44: a look-up over a complete table finds a symbol or runs short of bits (`Table.lookup_ne_noCode`), and it
consumes nothing (`Table.lookupFrom_ends`). -/
theorem hcDecodeNeverInvalidCode : Obligations.HcDecodeNeverInvalidCode := by
  intro slot s hslot hready hroom hfit hvalid hwf hcomplete
  have haccepts := hready.accepts_hcDecode hslot hvalid
  obtain ⟨-, -, hmode, hchannel⟩ := hready
  obtain ⟨htotal, -⟩ := hroom
  have hmax := Table.maxlen_le hvalid hwf
  have hno := Table.lookup_ne_noCode (src := s.port.src) hvalid hwf hcomplete hchannel hmode hmax
  have hspec := (s.table slot.toNat).lookupFrom_spec params (s.table slot.toNat).maxlen 1 s.bc s.port.src (by omega)
  have hends := (s.table slot.toNat).lookupFrom_ends (s.table slot.toNat).maxlen 1 s.bc s.port.src (by omega) hchannel
    hmode
  rw [exec, execHcDecode, if_neg haccepts]
  rw [Table.lookup] at hno ⊢
  generalize (s.table slot.toNat).lookupFrom params (s.table slot.toNat).maxlen 1 s.bc s.port.src = r at *
  obtain ⟨⟨c, src⟩, look⟩ := r
  obtain ⟨hreads, hfound⟩ := hspec
  obtain ⟨htotal', hupcoming, hshort, -⟩ := hends
  obtain ⟨-, hbytes, hnbits⟩ := (Bc.wf_read_iff (hreads.mode.trans hmode)).mp (hreads.wf hchannel hmode)
  dsimp only at *
  cases look with
  | found symbol length =>
    obtain ⟨h15, hpending⟩ := hfound symbol length rfl
    exact ⟨_, _, State.finish_channel (s := s) (c := c.skip length) hfit (show c.total + length < 2 ^ 64 by omega)
      (show c.nbytes < 2 ^ 64 by omega), rfl, .inl rfl⟩
  | short missing =>
    exact ⟨_, _, State.finish_channel (s := { s with err := _ }) (c := c) hfit (show c.total < 2 ^ 64 by omega)
      (show c.nbytes < 2 ^ 64 by omega), rfl, .inr ⟨rfl, by have := hshort missing rfl; omega, htotal', hupcoming⟩⟩
  | noCode bits => exact absurd rfl (hno bits)

/-! ### The look-up structure (R217, R218) -/

/-- An entry of the look-up structure (R217). -/
theorem Table.lut_getElem? (t : Table) {i : Nat} (hi : i < 2 ^ t.maxlen) : t.lut[i]? =
    some ((List.range t.n).findSome? fun s =>
      let cl := t.codeOf s
      if cl.2 ≠ 0 && i % 2 ^ cl.2 == revBits cl.2 cl.1 then some (s, cl.2) else none) := by
  rw [Table.lut, List.getElem?_map, List.getElem?_range hi, Option.map_some]

/-- The entry that the next `maxlen` bits select is what the look-up finds (R217, R218). -/
theorem Table.lut_agrees {t : Table} {c : Bc} {src : List Byte} (hvalid : t.valid = true) (hwf : t.Wf)
    (hcomplete : t.Complete) (hc : c.Wf) (hmode : c.mode = .read) (havail : t.maxlen ≤ c.nbits + 8 * src.length) :
    ∃ symbol length, t.lut[c.upcoming src % 2 ^ t.maxlen]? = some (some (symbol, length)) ∧ length ≤ 15 ∧
      length ≤ c.nbits + 8 * src.length ∧ t.lookup params c src = (Bc.need length c src, .found symbol length) := by
  obtain ⟨hn, -, -, -, -, hmaxlen, -⟩ := hwf hvalid
  obtain ⟨used, l, hused, hlen, h0, hl, hnext, -⟩ := Table.exists_next_symbol hvalid hwf hcomplete (c.upcoming src)
  have hmod : ∀ k, k ≤ t.maxlen → c.upcoming src % 2 ^ t.maxlen % 2 ^ k = c.upcoming src % 2 ^ k := fun k hk =>
    Nat.mod_mod_of_dvd _ (Nat.pow_dvd_pow 2 hk)
  rw [Table.lut_getElem? t (Nat.mod_lt _ (Nat.two_pow_pos _))]
  cases hentry : (List.range t.n).findSome? _ with
  | none =>
    have hmiss := List.findSome?_eq_none_iff.mp hentry used (List.mem_range.mpr hused)
    dsimp only [Table.codeOf] at hmiss
    rw [hlen, hmod l hl, hnext, codeField_eq_revBits] at hmiss
    simp [h0] at hmiss
  | some entry =>
    obtain ⟨symbol, hsymbol, hmatch⟩ := List.exists_of_findSome?_eq_some hentry
    have hsymbol := List.mem_range.mp hsymbol
    have hle : t.len.getD symbol 0 ≤ t.maxlen := by
      rw [hmaxlen]
      refine (maxLen_le_iff _ _).mp (Nat.le_refl _) _ ?_
      rw [List.getD_eq_getElem _ _ (hn ▸ hsymbol)]
      exact List.getElem_mem _
    dsimp only [Table.codeOf] at hmatch
    split at hmatch
    · rename_i hcode
      injection hmatch with hmatch
      simp only [ne_eq, decide_not, Bool.and_eq_true, Bool.not_eq_true', decide_eq_false_iff_not, beq_iff_eq,
        hmod _ hle, ← codeField_eq_revBits] at hcode
      obtain ⟨h15, hlookup⟩ := Table.lookup_code hvalid hwf hcomplete hsymbol rfl hcode.1 hc hmode (by omega) hcode.2
      exact ⟨symbol, t.len.getD symbol 0, by rw [← hmatch], h15, by omega, hlookup⟩
    · cases hmatch

/-- Settles O45, by the look-up that the structure's entry stands for (`Table.lut_agrees`). -/
theorem lookupStructureAgrees : Obligations.LookupStructureAgrees := by
  intro slot s hslot hready hroom hfit hvalid hwf hcomplete havail
  have haccepts := hready.accepts_hcDecode hslot hvalid
  obtain ⟨-, -, hmode, hchannel⟩ := hready
  obtain ⟨htotal, -⟩ := hroom
  obtain ⟨symbol, length, hentry, h15, hle, hlookup⟩ := Table.lut_agrees hvalid hwf hcomplete hchannel hmode havail
  have hreads := Bc.reads_need (n := length) (by omega) s.bc s.port.src
  obtain ⟨-, hbytes, hnbits⟩ := (Bc.wf_read_iff (hreads.mode.trans hmode)).mp (hreads.wf hchannel hmode)
  have htotal' := Bc.need_total length s.bc s.port.src
  rw [exec, execHcDecode, if_neg haccepts, hlookup]
  refine ⟨symbol, length, _, hentry, State.finish_channel (s := s) (c := (Bc.need length s.bc s.port.src).1.skip length)
    hfit ?_ ?_, rfl, congrArg (· + length) htotal'⟩
  · show (Bc.need length s.bc s.port.src).1.total + length < 2 ^ 64
    omega
  · show (Bc.need length s.bc s.port.src).1.nbytes < 2 ^ 64
    omega

end Sys2Proof.Machine
end

section

namespace Sys2Proof.Machine

/-! ### The staging memory, encode and discard (R191, R212, R220) -/

/-- Settles O37. -/
theorem hcStageResult : Obligations.HcStageResult := by
  intro index value s hclosed
  refine ⟨fun hindex hwf => ⟨s.hc.stg.set index.toNat value, ?_, Mem.wf_set _ _ hwf, Mem.get_set_same _ _ _ hwf,
    fun a ha => Mem.get_set_other _ _ ha hwf⟩, fun hindex => ?_⟩
  · have haccepts : ¬(s.sessionOpen || decide (319 < index.toNat)) = true := by simp [hclosed, hindex]
    rw [exec, execHcStage, if_neg haccepts]
    rfl
  · have hrefuses : (s.sessionOpen || decide (319 < index.toNat)) = true := by simp [hindex]
    rw [exec, execHcStage, if_pos hrefuses]
    rfl

/-- Writing a slot changes the three slots only. -/
theorem State.setTable_eq (s : State) (slot : Nat) (t : Table) :
    s.setTable slot t = { s with hc := { (s.setTable slot t).hc with stg := s.hc.stg } } := by
  unfold State.setTable
  split <;> rfl

/-- Settles O42. -/
theorem hcEncodeAndDiscardResult : Obligations.HcEncodeAndDiscardResult := by
  intro slot s hclosed
  refine ⟨fun symbol hslot hvalid hsymbol => hcEncode_answers hclosed hslot hvalid hsymbol,
    fun hslot => ⟨s.discard slot.toNat, ?_, State.setTable_eq _ _ _, State.table_setTable_same _ _ _ (by omega),
      fun k hk => State.table_setTable_other _ _ _ _ hk⟩⟩
  have haccepts : ¬(s.hcRefuses slot.toNat || decide (2 < slot.toNat)) = true := by
    simp [State.hcRefuses, hclosed, hslot]
    omega
  rw [exec, execHcDiscard, if_neg haccepts]
  rfl

/-! ### Construction from lengths (R206) -/

/-- The checks of the construction commands let well-formed operands pass (R190, R192). -/
theorem State.accepts_build {s : State} {slot n limit : Nat} (hclosed : s.sessionOpen = false)
    (h : Instr.buildable slot n limit = true) : ¬s.buildRefuses slot n limit = true := by
  simp only [Instr.buildable, Bool.and_eq_true, decide_eq_true_eq] at h
  simp [State.buildRefuses, State.hcRefuses, hclosed]
  omega

/-- What a construction answers where it fails: the error is recorded and the slot is invalid (R194). -/
theorem State.answerBuilt_failed (s : State) (slot info : Nat) : s.answerBuilt slot (.failed info) = .next
    ({ s.setTable slot { s.table slot with valid := false } with
        err := { kind := 5, unit := 3, info := BitVec.ofNat 32 info } }.respond
      (errorResponse 5 (BitVec.ofNat 32 info))) := rfl

/-- What a construction answers where it makes a table. -/
theorem State.answerBuilt_table (s : State) (slot : Nat) (t : Table) :
    s.answerBuilt slot (.table t) = .next ((s.setTable slot t).respond (okValue t.maxlen)) := rfl

/-- Lengths within the limit are judged by the Kraft equality (R206). -/
theorem buildLen_of_le {limit : Nat} {len : List Nat} (hle : ∀ l ∈ len, l ≤ limit) : buildLen limit len =
    if kraftSum limit len = 2 ^ limit then .table (Table.ofLens limit len) else .failed (kraftSum limit len) := by
  have hnone : len.findIdx? (fun l => decide (limit < l)) = none :=
    List.findIdx?_eq_none_iff.mpr fun l hl => by simpa using hle l hl
  rw [buildLen, hnone]

/-- The first length above the limit makes the construction fail (R206). -/
theorem buildLen_of_lt {limit k : Nat} {len : List Nat} (hk : k < len.length) (habove : limit < len.getD k 0)
    (hfirst : ∀ j, j < k → len.getD j 0 ≤ limit) : buildLen limit len = .failed k := by
  have hsome : len.findIdx? (fun l => decide (limit < l)) = some k := by
    rw [List.findIdx?_eq_some_iff_getElem]
    rw [List.getD_eq_getElem _ _ hk] at habove
    refine ⟨hk, decide_eq_true habove, fun j hj => ?_⟩
    have := hfirst j hj
    rw [List.getD_eq_getElem _ _ (by omega)] at this
    simpa using this
  rw [buildLen, hsome]

/-- The table of some lengths, its codes written out (R208). -/
theorem Table.ofLens_eq {limit : Nat} {len : List Nat} (h : ∀ l ∈ len, l ≤ 15) : Table.ofLens limit len =
    { valid := true, n := len.length, limit := limit, maxlen := len.foldl max 0, len := len
      code := (List.range len.length).map (canonicalCode len) } := by
  rw [Table.ofLens, assignCodes_eq_canonical len h]
  rfl

/-- Settles O38, by the cases of the construction (`buildLen_of_le`, `buildLen_of_lt`). -/
theorem hcBuildLenResult : Obligations.HcBuildLenResult := by
  intro slot n limit s hclosed hbuildable lens fails
  have hexec : exec (.hcBuildLen slot n limit) s = s.answerBuilt slot.toNat (buildLen limit.toNat lens) :=
    if_neg (State.accepts_build hclosed hbuildable)
  have hlength : lens.length = n.toNat := by simp [lens]
  refine ⟨fun hle hkraft => ?_, fun hle hkraft => ?_, fun k hk habove hfirst => ?_⟩
  · have h15 : ∀ l ∈ lens, l ≤ 15 := fun l hl => Nat.le_trans (hle l hl) (Nat.le_of_lt_succ limit.isLt)
    rw [hexec, buildLen_of_le hle, if_pos hkraft, State.answerBuilt_table, Table.ofLens_eq h15, hlength]
  · exact hexec.trans (by rw [buildLen_of_le hle, if_neg hkraft, State.answerBuilt_failed])
  · exact hexec.trans (by rw [buildLen_of_lt (hlength ▸ hk) habove hfirst, State.answerBuilt_failed])

end Sys2Proof.Machine
end

section

namespace Sys2Proof.Machine

/-! ### Sums over the used symbols (R193) -/

theorem usedFrom_eq_filter : ∀ (s : Nat) (freq : List Nat), usedFrom s freq =
    ((List.range freq.length).filter fun i => decide (freq.getD i 0 ≠ 0)).map fun i => (s + i, freq.getD i 0)
  | _, [] => rfl
  | s, f :: rest => by
    have ih := usedFrom_eq_filter (s + 1) rest
    have htail : ((List.range rest.length).map Nat.succ).filter (fun i => decide ((f :: rest).getD i 0 ≠ 0)) =
        ((List.range rest.length).filter fun i => decide (rest.getD i 0 ≠ 0)).map Nat.succ := by
      rw [List.filter_map]
      rfl
    rw [usedFrom, List.length_cons, List.range_succ_eq_map]
    by_cases hf : f = 0
    · rw [if_pos hf, List.filter_cons_of_neg (by simp [hf]), htail, ih, List.map_map]
      refine List.map_congr_left fun i _ => ?_
      simp [Nat.add_assoc, Nat.add_comm 1]
    · rw [if_neg hf, List.filter_cons_of_pos (by simp [hf]), htail, ih, List.map_cons, List.map_map]
      refine congrArg₂ List.cons rfl (List.map_congr_left fun i _ => ?_)
      simp [Nat.add_assoc, Nat.add_comm 1]

/-- The used symbols, in symbol order (R193). -/
theorem used_symbols (freq : List Nat) :
    (used freq).map Prod.fst = (List.range freq.length).filter fun s => decide (freq.getD s 0 ≠ 0) := by
  rw [used, usedFrom_eq_filter, List.map_map]
  simp [Function.comp_def]

theorem mem_used_symbols {freq : List Nat} {s : Nat} :
    s ∈ (used freq).map Prod.fst ↔ s < freq.length ∧ freq.getD s 0 ≠ 0 := by
  rw [used_symbols, List.mem_filter, List.mem_range, decide_eq_true_eq]

theorem used_snd {freq : List Nat} {p : Nat × Nat} (hp : p ∈ used freq) : p.2 = freq.getD p.1 0 := by
  rw [used, usedFrom_eq_filter] at hp
  obtain ⟨i, -, rfl⟩ := List.mem_map.mp hp
  rw [Nat.zero_add]

/-- The number `u` of used symbols (R193). -/
theorem used_length (freq : List Nat) : (used freq).length = (freq.filter fun f => decide (f ≠ 0)).length := by
  have hcount := congrArg (List.countP fun f => decide (f ≠ 0)) (map_range_getD id freq)
  rw [List.countP_map, List.map_id] at hcount
  rw [← List.length_map (f := Prod.fst), used_symbols, ← List.countP_eq_length_filter, ← List.countP_eq_length_filter,
    ← hcount]
  rfl

/-- A sum over the used symbols is one over all symbols to which the unused ones add nothing. -/
theorem sum_used_symbols {freq : List Nat} {g : Nat → Nat} (h : ∀ s, s < freq.length → freq.getD s 0 = 0 → g s = 0) :
    (((used freq).map Prod.fst).map g).sum = ((List.range freq.length).map g).sum := by
  have hfilter : ∀ l : List Nat, (∀ s ∈ l, freq.getD s 0 = 0 → g s = 0) →
      ((l.filter fun s => decide (freq.getD s 0 ≠ 0)).map g).sum = (l.map g).sum := by
    intro l hl
    induction l with
    | nil => rfl
    | cons s l ih =>
      have ih := ih fun t ht => hl t (List.mem_cons_of_mem _ ht)
      by_cases hs : freq.getD s 0 = 0
      · rw [List.filter_cons_of_neg (by simp only [hs]; decide), ih, List.map_cons, List.sum_cons,
          hl s (List.mem_cons_self ..) hs, Nat.zero_add]
      · rw [List.filter_cons_of_pos (by simpa using hs), List.map_cons, List.map_cons, List.sum_cons, List.sum_cons, ih]
  rw [used_symbols]
  exact hfilter _ fun s hs => h s (List.mem_range.mp hs)

/-- A leaf of the pool is that of its symbol (R197). -/
theorem leaves_mem {freq : List Nat} {x : HNode} (hx : x ∈ leaves freq) :
    x.w = freq.getD x.id 0 ∧ x.tree = .leaf x.id := by
  obtain ⟨p, hp, rfl⟩ := List.mem_map.mp ((leaves_perm freq).mem_iff.mp hx)
  exact ⟨used_snd hp, rfl⟩

theorem leaves_length (freq : List Nat) : (leaves freq).length = (used freq).length := by
  rw [(leaves_perm freq).length_eq, List.length_map]

/-! ### Lengths a code can have (R193) -/

/-- The sum of frequency times length (R200). -/
def weightedLength (freq len : List Nat) : Nat :=
  ((List.range freq.length).map fun s => freq.getD s 0 * len.getD s 0).sum

theorem zipWith_mul_sum {freq len : List Nat} (h : len.length = freq.length) :
    (List.zipWith (· * ·) freq len).sum = weightedLength freq len := by
  refine congrArg List.sum (List.ext_getElem (by simp [h]) fun i h1 _ => ?_)
  simp at h1
  simp [h1]

/-- What `HcBuildFreqIsOptimal` asks of the lengths it compares with: they are of the used symbols, within the limit
and the Kraft inequality. -/
structure Codable (limit : Nat) (freq len : List Nat) : Prop where
  length  : len.length = freq.length
  support : ∀ s, s < freq.length → (len.getD s 0 = 0 ↔ freq.getD s 0 = 0)
  le      : ∀ l ∈ len, l ≤ limit
  kraft   : kraftSum limit len ≤ 2 ^ limit

/-- The sum over the symbols as one over the leaves. -/
theorem weightedLength_leaves (freq len : List Nat) :
    weightedLength freq len = ((leaves freq).map fun x => x.w * len.getD x.id 0).sum := by
  have hleaves : (leaves freq).map (fun x => x.w * len.getD x.id 0) =
      ((leaves freq).map HNode.id).map fun s => freq.getD s 0 * len.getD s 0 := by
    rw [List.map_map]
    exact List.map_congr_left fun x hx => by rw [(leaves_mem hx).1]; rfl
  rw [hleaves, ((leaves_ids_perm freq).map _).sum_eq, sum_used_symbols fun s _ hs => by rw [hs, Nat.zero_mul]]
  rfl

/-- The length of a symbol is within the limit. -/
theorem Codable.getD_le {limit : Nat} {freq len : List Nat} (h : Codable limit freq len) (s : Nat) :
    len.getD s 0 ≤ limit := by
  rw [List.getD_eq_getElem?_getD]
  cases hs : len[s]? with
  | none => exact Nat.zero_le _
  | some l => exact h.le l (List.mem_of_getElem? hs)

/-- The share of the code space that lengths take (R193). -/
def lengthShare (cs : List Nat) : ℚ := (cs.map fun c => (1 / 2 : ℚ) ^ c).sum

@[simp] theorem lengthShare_nil : lengthShare [] = 0 := rfl

@[simp] theorem lengthShare_cons (c : Nat) (cs : List Nat) : lengthShare (c :: cs) = (1 / 2) ^ c + lengthShare cs := rfl

/-- The lengths of the leaves under a code. -/
def leafLengths (freq len : List Nat) : List Nat := (leaves freq).map fun x => len.getD x.id 0

/-- The Kraft sum, as a share of the code space. -/
theorem Codable.kraftSum_eq {limit : Nat} {freq len : List Nat} (h : Codable limit freq len) :
    (kraftSum limit len : ℚ) = 2 ^ limit * lengthShare (leafLengths freq len) := by
  have hsum : (((leaves freq).map HNode.id).map fun s => 2 ^ (limit - len.getD s 0)).sum = kraftSum limit len := by
    rw [((leaves_ids_perm freq).map _).sum_eq, kraftSum,
      ← map_range_getD (fun l => if l = 0 then 0 else 2 ^ (limit - l)), h.length, ← sum_used_symbols]
    · refine congrArg List.sum (List.map_congr_left fun s hs => ?_)
      obtain ⟨hlt, hused⟩ := mem_used_symbols.mp hs
      rw [if_neg fun hzero => hused ((h.support s hlt).mp hzero)]
    · intro s hlt hunused
      rw [if_pos ((h.support s hlt).mpr hunused)]
  have hentry : ∀ x : HNode, ((2 ^ (limit - len.getD x.id 0) : Nat) : ℚ) = 2 ^ limit * (1 / 2) ^ len.getD x.id 0 :=
    fun x => by
      push_cast
      rw [pow_sub₀ _ two_ne_zero (h.getD_le x.id), one_div, inv_pow]
  rw [← hsum, Nat.cast_list_sum, List.map_map, List.map_map, lengthShare, leafLengths, List.map_map,
    ← List.sum_map_mul_left]
  exact congrArg List.sum (List.map_congr_left fun x _ => hentry x)

/-- The Kraft inequality over the leaves. -/
theorem Codable.share_le {limit : Nat} {freq len : List Nat} (h : Codable limit freq len) :
    lengthShare (leafLengths freq len) ≤ 1 := by
  have hkraft : (kraftSum limit len : ℚ) ≤ 2 ^ limit := by exact_mod_cast h.kraft
  rw [h.kraftSum_eq] at hkraft
  exact le_of_mul_le_mul_left (by rwa [mul_one]) (by positivity)

end Sys2Proof.Machine
end

section

namespace Sys2Proof.Machine

/-! ### Package-merge takes the least weight (R200)

A code gives each level of package-merge a choice of items: those of the symbols with at least that many bits left. The
first entries of a level's list weigh no more than what the code chooses up to that level, and there are enough of
them: both by induction on the levels, since an item takes half of the code space and a package half of what it took a
level before. -/

/-- The first numbers of a rising list are the least that stand in it in their order. -/
theorem sum_take_le_of_sublist : ∀ {l l' : List Nat} {n : Nat}, l.Pairwise (· ≤ ·) → List.Sublist l' l →
    n ≤ l'.length → (l.take n).sum ≤ l'.sum
  | [], _, _, _, _, _ => by simp
  | _ :: _, _, 0, _, _, _ => by simp
  | _ :: _, [], n + 1, _, _, hn => by simp at hn
  | x :: l, y :: l', n + 1, hsorted, hsub, hn => by
    obtain ⟨hx, hsorted⟩ := List.pairwise_cons.mp hsorted
    have hxy : x ≤ y := by
      rcases List.mem_cons.mp (hsub.subset (List.mem_cons_self ..)) with rfl | hy
      · exact Nat.le_refl _
      · exact hx y hy
    have hrest := sum_take_le_of_sublist (l' := l') hsorted hsub.tail (Nat.le_of_succ_le_succ hn)
    rw [List.take_succ_cons, List.sum_cons, List.sum_cons]
    exact Nat.add_le_add hxy hrest

/-- The first numbers of a rising list are the least that can be taken from it. -/
theorem sum_take_le_of_subperm {l l' : List Nat} {n : Nat} (hsorted : l.Pairwise (· ≤ ·)) (hsub : List.Subperm l' l)
    (hn : n ≤ l'.length) : (l.take n).sum ≤ l'.sum := by
  obtain ⟨l'', hperm, hsub⟩ := hsub
  rw [← hperm.sum_eq]
  exact sum_take_le_of_sublist hsorted hsub (hperm.length_eq ▸ hn)

/-- The first packages weigh as much as twice as many entries (R200). -/
theorem sum_w_take_packages : ∀ (p i : Nat) (l : List Pack), 2 * p ≤ l.length →
    p ≤ (packagesFrom i l).length ∧
      (((packagesFrom i l).take p).map Pack.w).sum = ((l.take (2 * p)).map Pack.w).sum
  | 0, _, _, _ => by simp
  | p + 1, i, x :: y :: rest, h => by
    obtain ⟨hlen, hsum⟩ := sum_w_take_packages p (i + 1) rest (by simp only [List.length_cons] at h; omega)
    rw [show 2 * (p + 1) = 2 * p + 1 + 1 by omega]
    simp only [packagesFrom, List.length_cons, List.take_succ_cons, List.map_cons, List.sum_cons, hsum]
    omega

/-- What a code of the lengths `c` takes from the levels of package-merge: a symbol of `c` bits takes `1 - 2^(-c)`, as
in `PackRow.share`. -/
def chosenShare (items : List Pack) (c : Pack → Nat) : ℚ := (items.map fun x => 1 - (1 / 2 : ℚ) ^ c x).sum

theorem chosenShare_nonneg (items : List Pack) (c : Pack → Nat) : 0 ≤ chosenShare items c :=
  List.sum_nonneg fun x hx => by
    obtain ⟨y, -, rfl⟩ := List.mem_map.mp hx
    exact sub_nonneg.mpr (pow_le_one₀ (by norm_num) (by norm_num))

/-- The share of a code and that of the code with a bit less for every symbol. -/
theorem chosenShare_eq (items : List Pack) (c : Pack → Nat) : chosenShare items c =
    1 / 2 * (items.filter fun x => decide (c x ≠ 0)).length + 1 / 2 * chosenShare items fun x => c x - 1 := by
  induction items with
  | nil => simp [chosenShare]
  | cons x items ih =>
    simp only [chosenShare, List.map_cons, List.sum_cons] at ih ⊢
    by_cases hx : c x = 0
    · rw [ih, List.filter_cons_of_neg (by simp [hx]), hx]
      simp
    · obtain ⟨d, hd⟩ := Nat.exists_eq_succ_of_ne_zero hx
      rw [ih, List.filter_cons_of_pos (by simp [hx]), hd, List.length_cons, Nat.succ_sub_one, pow_succ]
      push_cast
      ring

/-- The weight of a code and that of the code with a bit less for every symbol. -/
theorem sum_w_mul_eq (items : List Pack) (c : Pack → Nat) : (items.map fun x => x.w * c x).sum =
    ((items.filter fun x => decide (c x ≠ 0)).map Pack.w).sum + (items.map fun x => x.w * (c x - 1)).sum := by
  induction items with
  | nil => rfl
  | cons x items ih =>
    rw [List.map_cons, List.sum_cons, ih, List.map_cons, List.sum_cons]
    by_cases hx : c x = 0
    · rw [List.filter_cons_of_neg (by simp [hx]), hx]
      simp
    · obtain ⟨d, hd⟩ := Nat.exists_eq_succ_of_ne_zero hx
      rw [List.filter_cons_of_pos (by simp [hx]), hd, List.map_cons, List.sum_cons, Nat.succ_sub_one, Nat.mul_succ]
      omega

/-- What holds of the list of every level, `depth` levels in: whatever number of entries a code of lengths up to `depth`
asks for, the list has them, and they weigh no more than the code. -/
def LeastWeight (items : List Pack) (depth : Nat) (list : List Pack) : Prop :=
  ∀ (c : Pack → Nat) (n : Nat), (∀ x ∈ items, c x ≤ depth) → (n : ℚ) / 2 ≤ chosenShare items c →
    n ≤ list.length ∧ ((list.take n).map Pack.w).sum ≤ (items.map fun x => x.w * c x).sum

theorem LeastWeight.nil (items : List Pack) : LeastWeight items 0 [] := by
  intro c n hc hn
  have hshare : chosenShare items c = 0 := by
    refine List.sum_eq_zero fun y hy => ?_
    obtain ⟨x, hx, rfl⟩ := List.mem_map.mp hy
    rw [Nat.le_zero.mp (hc x hx), pow_zero, sub_self]
  have hnone : (n : ℚ) ≤ 0 := by linarith
  obtain rfl : n = 0 := Nat.le_zero.mp (by exact_mod_cast hnone)
  simp

/-- A code takes an item of each symbol it has, and asks the packages for the rest: from the level before, with a bit
less for every symbol. -/
theorem LeastWeight.next {items list merged : List Pack} {depth : Nat} (h : LeastWeight items depth list)
    (hmerged : Merged items list merged) : LeastWeight items (depth + 1) merged := by
  intro c n hc hn
  rw [chosenShare_eq] at hn
  generalize hchosen : (items.filter fun x => decide (c x ≠ 0)) = chosen at *
  have hnonneg := chosenShare_nonneg items fun x => c x - 1
  have hpairs : ((2 * (n - chosen.length) : Nat) : ℚ) / 2 ≤ chosenShare items fun x => c x - 1 := by
    rcases Nat.le_total n chosen.length with hle | hle
    · simpa [Nat.sub_eq_zero_of_le hle] using hnonneg
    · push_cast [Nat.cast_sub hle]
      linarith
  obtain ⟨hlist, hweight⟩ := h (fun x => c x - 1) _ (fun x hx => by have := hc x hx; omega) hpairs
  obtain ⟨hpackages, hsum⟩ := sum_w_take_packages _ 0 list hlist
  have hsub : List.Subperm (chosen ++ (packagesFrom 0 list).take (n - chosen.length)) merged := by
    refine (List.Sublist.append ?_ (List.take_sublist ..)).subperm.trans
      (List.perm_append_comm.trans hmerged.perm.symm).subperm
    exact hchosen ▸ List.filter_sublist
  have hlength : n ≤ (chosen ++ (packagesFrom 0 list).take (n - chosen.length)).length := by
    rw [List.length_append, List.length_take]
    omega
  have hweights : List.Subperm ((chosen ++ (packagesFrom 0 list).take (n - chosen.length)).map Pack.w)
      (merged.map Pack.w) :=
    let ⟨l, hperm, hl⟩ := hsub
    ⟨l.map Pack.w, hperm.map _, hl.map _⟩
  have hleast := sum_take_le_of_subperm (n := n) (List.pairwise_map.mpr (hmerged.before.imp And.left))
    hweights (by rwa [List.length_map])
  rw [List.map_append, List.sum_append, hsum, ← List.map_take] at hleast
  have hcode := sum_w_mul_eq items c
  rw [hchosen] at hcode
  exact ⟨Nat.le_trans hlength hsub.length_le, by omega⟩

theorem LeastWeight.first {items : List Pack} (h : ItemRow items) : LeastWeight items 1 items := by
  refine (LeastWeight.nil items).next ⟨.refl _, h.before, ?_, ?_⟩
  · exact List.filter_eq_nil_iff.mpr fun x hx => by rw [h.kind x hx]; simp
  · exact List.filter_eq_self.mpr fun x hx => by rw [h.kind x hx]; rfl

theorem LeastWeight.levels {items : List Pack} (hitems : ItemRow items) : ∀ (k depth : Nat) (list : List Pack),
    PackRow items depth list → LeastWeight items depth list → LeastWeight items (depth + k) (packLevels items k list)
  | 0, _, _, _, h => h
  | k + 1, depth, _, hrow, h => by
    have := LeastWeight.levels hitems k (depth + 1) _ (hrow.next hitems) (h.next (hrow.merged_next hitems))
    rwa [Nat.add_assoc, Nat.add_comm 1] at this

theorem leastWeight_packList (freq : List Nat) {limit : Nat} (h : 1 ≤ limit) :
    LeastWeight (itemOf (leaves freq)) limit (packList freq limit) := by
  have hitems := itemRow_leaves freq
  have := LeastWeight.levels hitems (limit - 1) 1 _ (PackRow.first hitems) (LeastWeight.first hitems)
  rwa [show 1 + (limit - 1) = limit by omega] at this

/-! #### The lengths package-merge makes -/

/-- Every entry weighs what its symbols weigh (R200). -/
def Weighed (freq : List Nat) (list : List Pack) : Prop :=
  ∀ e ∈ list, e.w = (e.contents.map fun s => freq.getD s 0).sum

theorem Weighed.packages {freq : List Nat} : ∀ {list : List Pack} (i : Nat), Weighed freq list →
    Weighed freq (packagesFrom i list)
  | [], _, _ => fun _ he => by cases he
  | [_], _, _ => fun _ he => by cases he
  | x :: y :: rest, i, h => by
    simp only [Weighed, List.forall_mem_cons] at h
    obtain ⟨hx, hy, hrest⟩ := h
    simp only [Weighed, packagesFrom, List.forall_mem_cons]
    exact ⟨by rw [hx, hy, List.map_append, List.sum_append], Weighed.packages (i + 1) hrest⟩

theorem Weighed.levels {freq : List Nat} {items : List Pack} (hrow : ItemRow items) (hitems : Weighed freq items) :
    ∀ (k depth : Nat) (list : List Pack), PackRow items depth list → Weighed freq list →
      Weighed freq (packLevels items k list)
  | 0, _, _, _, h => h
  | k + 1, depth, list, hlist, h => by
    refine Weighed.levels hrow hitems k (depth + 1) _ (hlist.next hrow) fun e he => ?_
    rcases List.mem_append.mp ((hlist.merged_next hrow).perm.mem_iff.mp he) with he | he
    · exact h.packages 0 e he
    · exact hitems e he

theorem mem_itemOf {ranked : List HNode} {e : Pack} (he : e ∈ itemOf ranked) :
    ∃ x ∈ ranked, e.w = x.w ∧ e.contents = [x.id] := by
  obtain ⟨p, hp, rfl⟩ := List.mem_map.mp he
  exact ⟨p.1, (List.mem_zipIdx' hp).2 ▸ List.getElem_mem _, rfl, rfl⟩

theorem weighed_packList (freq : List Nat) (limit : Nat) : Weighed freq (packList freq limit) := by
  have hitems : Weighed freq (itemOf (leaves freq)) := fun e he => by
    obtain ⟨x, hx, hw, hcontents⟩ := mem_itemOf he
    rw [hw, hcontents, (leaves_mem hx).1]
    rfl
  exact Weighed.levels (itemRow_leaves freq) hitems _ 1 _ (PackRow.first (itemRow_leaves freq)) hitems

/-- Entries weigh as much as their symbols as often as they occur. -/
theorem Weighed.sum_eq {freq : List Nat} {list : List Pack} (h : Weighed freq list)
    (hsymbols : ∀ s ∈ packSymbols list, s < freq.length) : (list.map Pack.w).sum =
      ((List.range freq.length).map fun s => freq.getD s 0 * (packSymbols list).count s).sum := by
  have hentries : (list.map Pack.w).sum = ((packSymbols list).map fun s => freq.getD s 0).sum := by
    clear hsymbols
    induction list with
    | nil => rfl
    | cons e list ih =>
      obtain ⟨he, hrest⟩ := List.forall_mem_cons.mp h
      rw [List.map_cons, List.sum_cons, ih hrest, he, packSymbols, packSymbols, List.flatMap_cons,
        List.map_append, List.sum_append]
  rw [hentries, Finset.sum_list_map_count]
  calc ∑ s ∈ (packSymbols list).toFinset, (packSymbols list).count s • freq.getD s 0
      = ∑ s ∈ Finset.range freq.length, (packSymbols list).count s • freq.getD s 0 := by
        refine Finset.sum_subset (fun s hs => ?_) fun s _ hs => ?_
        · exact Finset.mem_range.mpr (hsymbols s (List.mem_toFinset.mp hs))
        · rw [List.count_eq_zero.mpr (by simpa using hs), zero_smul]
    _ = ((List.range freq.length).map fun s => freq.getD s 0 * (packSymbols list).count s).sum :=
        Finset.sum_congr rfl fun s _ => by rw [smul_eq_mul, Nat.mul_comm]

/-- The items' lengths under a code. -/
def itemLength (len : List Nat) (x : Pack) : Nat := (x.contents.map fun s => len.getD s 0).sum

theorem map_itemOf_leaves {β : Type} (freq len : List Nat) (g : Nat → Nat → β) :
    (itemOf (leaves freq)).map (fun x => g x.w (itemLength len x)) =
      (leaves freq).map fun x => g x.w (len.getD x.id 0) := by
  rw [itemOf, List.map_map]
  conv_rhs => rw [← List.zipIdx_map_fst 0 (leaves freq), List.map_map]
  refine List.map_congr_left fun p _ => ?_
  simp [itemLength]

/-- A code's share of package-merge's levels: enough for the entries that package-merge takes (R200). -/
theorem Codable.takes_enough {limit : Nat} {freq len : List Nat} (h : Codable limit freq len)
    (hused : 2 ≤ (used freq).length) :
    ((2 * (used freq).length - 2 : Nat) : ℚ) / 2 ≤ chosenShare (itemOf (leaves freq)) (itemLength len) := by
  have hkraft := h.share_le
  have hshare : chosenShare (itemOf (leaves freq)) (itemLength len) =
      (used freq).length - lengthShare (leafLengths freq len) := by
    have hlengths := sum_one_sub (fun l => (1 / 2 : ℚ) ^ l) (leafLengths freq len)
    rw [leafLengths, List.map_map, List.length_map, leaves_length] at hlengths
    rw [chosenShare, map_itemOf_leaves freq len fun _ l => 1 - (1 / 2 : ℚ) ^ l]
    exact hlengths
  rw [hshare, Nat.cast_sub (by omega)]
  push_cast
  linarith

/-- The longest lengths within the limit take as much of the code space as any: enough entries are there (R200). -/
theorem packList_length {freq : List Nat} {limit : Nat} (hlimit : 1 ≤ limit) (hused : 2 ≤ (used freq).length)
    (hfits : (used freq).length ≤ 2 ^ limit) : 2 * (used freq).length - 2 ≤ (packList freq limit).length := by
  refine (leastWeight_packList freq hlimit (fun _ => limit) _ (fun _ _ => Nat.le_refl _) ?_).1
  have hlength : (itemOf (leaves freq)).length = (used freq).length := by simp [itemOf, leaves_length]
  have hshare : ((used freq).length : ℚ) * (1 / 2) ^ limit ≤ 1 := by
    have hcast : ((used freq).length : ℚ) ≤ 2 ^ limit := by exact_mod_cast hfits
    rw [one_div, inv_pow]
    exact mul_inv_le_one_of_le₀ hcast (by positivity)
  rw [chosenShare, List.map_const', List.sum_replicate, hlength, nsmul_eq_mul, Nat.cast_sub (by omega)]
  push_cast
  linarith

/-- The entries that package-merge takes weigh no more than a code (R200). -/
theorem packList_least {freq other : List Nat} {limit : Nat} (hlimit : 1 ≤ limit) (hused : 2 ≤ (used freq).length)
    (h : Codable limit freq other) :
    (((packList freq limit).take (2 * (used freq).length - 2)).map Pack.w).sum ≤ weightedLength freq other := by
  rw [weightedLength_leaves, ← map_itemOf_leaves freq other fun w l => w * l]
  refine (leastWeight_packList freq hlimit (itemLength other) _ (fun e he => ?_) (h.takes_enough hused)).2
  obtain ⟨x, -, -, hcontents⟩ := mem_itemOf he
  simpa [itemLength, hcontents] using h.getD_le x.id

/-- Where the used symbols are no more than there are codes, package-merge makes lengths of exactly these symbols, and
no code within the limit has a smaller sum of frequency times length (R200). -/
theorem packageMergeLengths_optimal {freq : List Nat} {limit : Nat} (hlimit : 1 ≤ limit)
    (hused : 2 ≤ (used freq).length) (hfits : (used freq).length ≤ 2 ^ limit) :
    ∃ len, packageMergeLengths freq limit = some len ∧ (∀ s, s < freq.length → (len.getD s 0 = 0 ↔ freq.getD s 0 = 0)) ∧
      ∀ other, Codable limit freq other → weightedLength freq len ≤ weightedLength freq other := by
  have hrow := packRow_packList freq hlimit
  have htake := packList_length hlimit hused hfits
  have hsum := hrow.share_used hused htake
  have hunused := fun s => hrow.count_unused (2 * (used freq).length - 2) (s := s)
  have hweighed : Weighed freq ((packList freq limit).take (2 * (used freq).length - 2)) := fun e he =>
    weighed_packList freq limit e (List.mem_of_mem_take he)
  have hleast := fun other (hother : Codable limit freq other) => packList_least hlimit hused hother
  generalize hchosen : (packList freq limit).take (2 * (used freq).length - 2) = chosen at *
  have hentry : ∀ s, s < freq.length →
      ((List.range freq.length).map fun s => (packSymbols chosen).count s).getD s 0 = (packSymbols chosen).count s :=
    fun s hs => by simp [hs]
  refine ⟨(List.range freq.length).map fun s => (packSymbols chosen).count s, ?_, fun s hs => ?_,
    fun other hother => ?_⟩
  · rw [packageMergeLengths]
    dsimp only
    rw [if_neg (Nat.not_lt.mpr htake), hchosen]
    rfl
  · rw [hentry s hs]
    refine ⟨fun hzero => ?_, fun hzero => hunused s fun h => (mem_used_symbols.mp h).2 hzero⟩
    by_contra hne
    exact count_ne_zero_of_share hsum (by rwa [List.length_map]) (mem_used_symbols.mpr ⟨hs, hne⟩) hzero
  · refine Nat.le_trans (Nat.le_of_eq ?_) (hleast other hother)
    rw [hweighed.sum_eq fun s hs => ?_, weightedLength]
    · exact congrArg List.sum (List.map_congr_left fun s hs => by rw [hentry s (List.mem_range.mp hs)])
    · by_contra hlt
      exact List.count_eq_zero.mp (hunused s fun h => hlt (mem_used_symbols.mp h).1) hs

end Sys2Proof.Machine
end

section

namespace Sys2Proof.Machine

/-! ### The greedy combination takes the least weight (R197)

Among the codes of a pool there is always one in which its two lightest nodes have the two longest lengths, and these
are equal: then both can be merged into one node with a bit less. -/

/-! #### Rearranging lengths -/

/-- The sum of weight times length over a pool. -/
def pairedWeight (ws cs : List Nat) : Nat := (List.zipWith (· * ·) ws cs).sum

@[simp] theorem pairedWeight_cons (w : Nat) (ws : List Nat) (c : Nat) (cs : List Nat) :
    pairedWeight (w :: ws) (c :: cs) = w * c + pairedWeight ws cs := rfl

/-- Giving a longer length to a lighter node does not add weight. -/
theorem pairedWeight_insert_le : ∀ {ws cs : List Nat} {w c : Nat}, (∀ x ∈ ws, w ≤ x) → ws.Pairwise (· ≤ ·) →
    cs.length = ws.length →
    pairedWeight (w :: ws) (cs.orderedInsert (· ≥ ·) c) ≤ pairedWeight (w :: ws) (c :: cs)
  | [], [], _, _, _, _, _ => Nat.le_refl _
  | x :: ws, d :: cs, w, c, hw, hsorted, hlen => by
    obtain ⟨hx, hsorted⟩ := List.pairwise_cons.mp hsorted
    rw [List.orderedInsert]
    split
    · exact Nat.le_refl _
    · rename_i hlt
      have ih := pairedWeight_insert_le (c := c) hx hsorted (Nat.succ.inj hlen)
      obtain ⟨e, rfl⟩ := Nat.exists_eq_add_of_lt (Nat.not_le.mp hlt)
      obtain ⟨y, rfl⟩ := Nat.exists_eq_add_of_le (hw x (List.mem_cons_self ..))
      simp only [pairedWeight_cons] at ih ⊢
      nlinarith

/-- Lengths that fall where the weights rise have the least weight. -/
theorem pairedWeight_sort_le : ∀ {ws cs : List Nat}, ws.Pairwise (· ≤ ·) → cs.length = ws.length →
    pairedWeight ws (cs.insertionSort (· ≥ ·)) ≤ pairedWeight ws cs
  | [], [], _, _ => Nat.le_refl _
  | w :: ws, c :: cs, hsorted, hlen => by
    obtain ⟨hw, hsorted⟩ := List.pairwise_cons.mp hsorted
    have hlen := Nat.succ.inj hlen
    calc pairedWeight (w :: ws) ((cs.insertionSort (· ≥ ·)).orderedInsert (· ≥ ·) c)
        ≤ pairedWeight (w :: ws) (c :: cs.insertionSort (· ≥ ·)) :=
          pairedWeight_insert_le hw hsorted (by rwa [List.length_insertionSort])
      _ ≤ pairedWeight (w :: ws) (c :: cs) := Nat.add_le_add_left (pairedWeight_sort_le hsorted hlen) _

/-- A pool in another order has the same weight with its lengths in that order. -/
theorem exists_perm_pairedWeight {ws ws' : List Nat} (h : ws.Perm ws') : ∀ {cs : List Nat}, cs.length = ws.length →
    ∃ cs' : List Nat, cs'.Perm cs ∧ pairedWeight ws' cs' = pairedWeight ws cs := by
  induction h with
  | nil => exact fun {cs} _ => ⟨cs, .refl _, rfl⟩
  | cons w _ ih =>
    intro cs hcs
    match cs, hcs with
    | c :: cs, hcs =>
      obtain ⟨cs', hperm, hweight⟩ := ih (Nat.succ.inj hcs)
      exact ⟨c :: cs', hperm.cons c, by rw [pairedWeight_cons, pairedWeight_cons, hweight]⟩
  | swap w v ws =>
    intro cs hcs
    match cs, hcs with
    | c :: d :: cs, hcs => exact ⟨d :: c :: cs, .swap .., by simp only [pairedWeight_cons]; omega⟩
  | trans h _ ih ih' =>
    intro cs hcs
    obtain ⟨cs', hperm, hweight⟩ := ih hcs
    obtain ⟨cs'', hperm', hweight'⟩ := ih' (hperm.length_eq.trans (hcs.trans h.length_eq))
    exact ⟨cs'', hperm'.trans hperm, hweight'.trans hweight⟩

/-! #### Merging the two longest lengths -/

theorem two_pow_mul_half_pow (b : Nat) : (2 : ℚ) ^ b * (1 / 2) ^ b = 1 := by
  rw [← mul_pow]
  norm_num

/-- The share of lengths of at most `b` bits is a multiple of the share of one of `b` bits. -/
theorem lengthShare_eq_mul {b : Nat} : ∀ {cs : List Nat}, (∀ c ∈ cs, c ≤ b) →
    ∃ k : Nat, lengthShare cs = k * (1 / 2) ^ b
  | [], _ => ⟨0, by simp⟩
  | c :: cs, h => by
    obtain ⟨hc, hcs⟩ := List.forall_mem_cons.mp h
    obtain ⟨k, hk⟩ := lengthShare_eq_mul hcs
    refine ⟨2 ^ (b - c) + k, ?_⟩
    obtain ⟨d, rfl⟩ := Nat.exists_eq_add_of_le hc
    rw [lengthShare_cons, hk, Nat.add_sub_cancel_left, pow_add]
    push_cast
    linear_combination -(1 / 2 : ℚ) ^ c * two_pow_mul_half_pow d

theorem lengthShare_nonneg (cs : List Nat) : 0 ≤ lengthShare cs :=
  List.sum_nonneg fun x hx => by
    obtain ⟨c, -, rfl⟩ := List.mem_map.mp hx
    positivity

/-- A length `a` beside lengths of at most `b` bits can be cut down to `b`: what the others leave free is a multiple of
the share of `b` bits. -/
theorem lengthShare_cut {a b : Nat} {cs : List Nat} (hcs : ∀ c ∈ cs, c ≤ b) (h : lengthShare (a :: cs) ≤ 1) :
    lengthShare (b :: cs) ≤ 1 := by
  obtain ⟨k, hk⟩ := lengthShare_eq_mul hcs
  have ha : (0 : ℚ) < (1 / 2) ^ a := by positivity
  have hb : (0 : ℚ) < (1 / 2) ^ b := by positivity
  have hone := two_pow_mul_half_pow b
  rw [lengthShare_cons, hk] at h ⊢
  have hlt : (k : ℚ) < 2 ^ b := by nlinarith
  have hle : (k : ℚ) + 1 ≤ 2 ^ b := by exact_mod_cast hlt
  calc (1 / 2) ^ b + k * (1 / 2) ^ b = ((k : ℚ) + 1) * (1 / 2) ^ b := by ring
    _ ≤ 2 ^ b * (1 / 2) ^ b := mul_le_mul_of_nonneg_right hle hb.le
    _ = 1 := hone

/-- The longest length can be cut down to the second longest `b`, and then both be one length of a bit less. -/
theorem lengthShare_merge {a b : Nat} {cs : List Nat} (hcs : ∀ c ∈ cs, c ≤ b) (h : lengthShare (a :: b :: cs) ≤ 1) :
    1 ≤ b ∧ lengthShare ((b - 1) :: cs) ≤ 1 := by
  have hcut := lengthShare_cut (List.forall_mem_cons.mpr ⟨Nat.le_refl b, hcs⟩) h
  simp only [lengthShare_cons] at hcut ⊢
  cases b with
  | zero =>
    have := lengthShare_nonneg cs
    rw [pow_zero] at hcut
    linarith
  | succ b =>
    refine ⟨Nat.succ_pos b, ?_⟩
    rw [pow_succ] at hcut
    rw [Nat.add_sub_cancel]
    linarith

/-! #### The tree -/

/-- The sum of the weights of a tree's leaves. -/
def HTree.weight (freq : List Nat) (t : HTree) : Nat := (t.symbols.map fun s => freq.getD s 0).sum

/-- The sum of frequency times depth over a tree's leaves, the root being at depth `d`. -/
def HTree.pathWeight (freq : List Nat) (t : HTree) (d : Nat) : Nat :=
  ((t.depths d).map fun p => freq.getD p.1 0 * p.2).sum

@[simp] theorem HTree.weight_node (freq : List Nat) (l r : HTree) :
    (HTree.node l r).weight freq = l.weight freq + r.weight freq := by
  simp [HTree.weight, HTree.symbols]

@[simp] theorem HTree.pathWeight_node (freq : List Nat) (l r : HTree) (d : Nat) :
    (HTree.node l r).pathWeight freq d = l.pathWeight freq (d + 1) + r.pathWeight freq (d + 1) := by
  simp [HTree.pathWeight, HTree.depths]

/-- A tree one level deeper has every leaf one level deeper. -/
theorem HTree.pathWeight_succ (freq : List Nat) : ∀ (t : HTree) (d : Nat),
    t.pathWeight freq (d + 1) = t.pathWeight freq d + t.weight freq
  | .leaf s, d => by simp [HTree.pathWeight, HTree.depths, HTree.weight, HTree.symbols, Nat.mul_succ]
  | .node l r, d => by
    simp only [HTree.pathWeight_node, HTree.weight_node, l.pathWeight_succ freq (d + 1), r.pathWeight_succ freq (d + 1)]
    omega

/-! #### The pool -/

/-- A pool of R197: its nodes by weight, each weighing as much as its leaves. -/
structure WeighedPool (freq : List Nat) (pool : List HNode) : Prop where
  sorted : pool.Pairwise fun a b => a.w ≤ b.w
  weight : ∀ x ∈ pool, x.w = x.tree.weight freq

/-- The node that the two lightest nodes of a pool become (R197). -/
def mergeNodes (P : Config.Params) (n k : Nat) (x y : HNode) : HNode :=
  { w := x.w + y.w, id := P.mergedId n k, tree := .node x.tree y.tree }

theorem mergePool_cons (P : Config.Params) (n fuel k : Nat) (x y : HNode) (rest : List HNode) :
    mergePool P n (fuel + 1) k (x :: y :: rest) = mergePool P n fuel (k + 1) (insertNode (mergeNodes P n k x y) rest) :=
  rfl

theorem WeighedPool.merge {freq : List Nat} {x y : HNode} {rest : List HNode} (P : Config.Params) (n k : Nat)
    (h : WeighedPool freq (x :: y :: rest)) : WeighedPool freq (insertNode (mergeNodes P n k x y) rest) := by
  obtain ⟨hsorted, hweight⟩ := h
  simp only [List.forall_mem_cons] at hweight
  obtain ⟨hx, hy, hrest⟩ := hweight
  refine ⟨insertNode_sorted _ (List.pairwise_cons.mp (List.pairwise_cons.mp hsorted).2).2, fun z hz => ?_⟩
  rcases List.mem_cons.mp ((insertNode_perm _ rest).mem_iff.mp hz) with rfl | hz
  · simp [mergeNodes, hx, hy]
  · exact hrest z hz

/-- What a code costs over a pool: its lengths for the nodes, and what is below the nodes. -/
def poolCost (freq : List Nat) (pool : List HNode) (cs : List Nat) : Nat :=
  pairedWeight (pool.map HNode.w) cs + (pool.map fun x => x.tree.pathWeight freq 0).sum

/-- Merging the two lightest nodes leaves a code that costs no more. -/
theorem exists_code_of_merge {freq : List Nat} {x y : HNode} {rest : List HNode} (P : Config.Params) (n k : Nat)
    (h : WeighedPool freq (x :: y :: rest)) {cs : List Nat} (hlen : cs.length = rest.length + 2)
    (hshare : lengthShare cs ≤ 1) :
    ∃ cs' : List Nat, cs'.length = rest.length + 1 ∧ lengthShare cs' ≤ 1 ∧
      poolCost freq (insertNode (mergeNodes P n k x y) rest) cs' ≤ poolCost freq (x :: y :: rest) cs := by
  obtain ⟨hsorted, hweight⟩ := h
  simp only [List.forall_mem_cons] at hweight
  obtain ⟨hx, hy, -⟩ := hweight
  have hsort := pairedWeight_sort_le (cs := cs) (List.pairwise_map.mpr hsorted) (by simpa using hlen)
  have hperm := List.perm_insertionSort (· ≥ ·) cs
  have hfalling := List.pairwise_insertionSort (· ≥ ·) cs
  generalize cs.insertionSort (· ≥ ·) = falling at *
  match falling, hperm.length_eq.trans hlen with
  | a :: b :: cs₀, hlen₀ =>
    obtain ⟨ha, hfalling⟩ := List.pairwise_cons.mp hfalling
    have hab : b ≤ a := ha b (List.mem_cons_self ..)
    obtain ⟨hb, hmerged⟩ := lengthShare_merge (List.pairwise_cons.mp hfalling).1
      (by rwa [lengthShare, (hperm.map _).sum_eq])
    have hnodes := insertNode_perm (mergeNodes P n k x y) rest
    obtain ⟨cs', hperm', hpaired⟩ := exists_perm_pairedWeight (hnodes.map HNode.w).symm (cs := (b - 1) :: cs₀)
      (by simpa using hlen₀)
    refine ⟨cs', ?_, ?_, ?_⟩
    · simpa [hperm'.length_eq] using hlen₀
    · rwa [lengthShare, (hperm'.map _).sum_eq]
    · have hpath := (hnodes.map fun x => x.tree.pathWeight freq 0).sum_eq
      simp only [poolCost, hpaired, hpath, List.map_cons, List.sum_cons, pairedWeight_cons] at hsort ⊢
      simp only [mergeNodes, HTree.pathWeight_node, HTree.pathWeight_succ freq _ 0, ← hx, ← hy]
      obtain ⟨d, rfl⟩ := Nat.exists_eq_add_of_le' hb
      obtain ⟨e, rfl⟩ := Nat.exists_eq_add_of_le hab
      rw [Nat.add_sub_cancel]
      nlinarith

/-- The greedy tree costs no more than any code of the pool (R197). -/
theorem mergePool_optimal {freq : List Nat} (P : Config.Params) (n : Nat) : ∀ (fuel k : Nat) (pool : List HNode)
    (cs : List Nat) (root : HNode), WeighedPool freq pool → cs.length = pool.length → lengthShare cs ≤ 1 →
    mergePool P n fuel k pool = [root] → root.tree.pathWeight freq 0 ≤ poolCost freq pool cs
  | fuel, _, [], _, _, _, _, _, hroot => by cases fuel <;> cases hroot
  | fuel, _, [x], cs, root, _, _, _, hroot => by
    have hx : x = root := by cases fuel <;> exact (List.cons.inj hroot).1
    simp [hx, poolCost]
  | 0, _, x :: y :: rest, _, _, _, _, _, hroot => by cases hroot
  | fuel + 1, k, x :: y :: rest, cs, root, hpool, hlen, hshare, hroot => by
    obtain ⟨cs', hlen', hshare', hcost⟩ := exists_code_of_merge P n k hpool hlen hshare
    rw [mergePool_cons] at hroot
    exact Nat.le_trans (mergePool_optimal P n fuel (k + 1) _ cs' root (hpool.merge P n k)
      (hlen'.trans (insertNode_perm _ rest).length_eq.symm) hshare' hroot) hcost

end Sys2Proof.Machine
end

section

namespace Sys2Proof.Machine

/-! ### What construction from frequencies makes (R196 to R203) -/

theorem getD_spreadLens {n s : Nat} (pairs : List (Nat × Nat)) (hs : s < n) :
    (spreadLens n pairs).getD s 0 = (pairs.lookup s).getD 0 := by
  rw [spreadLens, List.getD_eq_getElem _ _ (by simpa using hs), List.getElem_map, List.getElem_range]

section
variable {freq : List Nat} {pairs : List (Nat × Nat)} (hkeys : (pairs.map Prod.fst).Perm ((used freq).map Prod.fst))
include hkeys

/-- Lengths of the used symbols are spread over these symbols only. -/
theorem spreadLens_support (hpos : ∀ p ∈ pairs, p.2 ≠ 0) {s : Nat} (hs : s < freq.length) :
    (spreadLens freq.length pairs).getD s 0 = 0 ↔ freq.getD s 0 = 0 := by
  rw [getD_spreadLens pairs hs]
  by_cases hmem : s ∈ pairs.map Prod.fst
  · obtain ⟨p, hp, rfl⟩ := List.mem_map.mp hmem
    rw [lookup_of_mem (hkeys.nodup_iff.mpr (used_nodup freq)) hp, Option.getD_some]
    exact iff_of_false (hpos p hp) (mem_used_symbols.mp (hkeys.mem_iff.mp hmem)).2
  · rw [lookup_of_notMem hmem, Option.getD_none]
    refine iff_of_true rfl ?_
    by_contra hused
    exact hmem (hkeys.mem_iff.mpr (mem_used_symbols.mpr ⟨hs, hused⟩))

theorem weightedLength_spreadLens : weightedLength freq (spreadLens freq.length pairs) =
    (pairs.map fun p => freq.getD p.1 0 * p.2).sum := by
  have hlookup : pairs.map (fun p => freq.getD p.1 0 * p.2) =
      (pairs.map Prod.fst).map fun s => freq.getD s 0 * (pairs.lookup s).getD 0 := by
    rw [List.map_map]
    refine List.map_congr_left fun p hp => ?_
    simp only [Function.comp, lookup_of_mem (hkeys.nodup_iff.mpr (used_nodup freq)) hp, Option.getD_some]
  rw [hlookup, (hkeys.map _).sum_eq, sum_used_symbols fun s _ hs => by rw [hs, Nat.zero_mul], weightedLength]
  exact congrArg List.sum (List.map_congr_left fun s hs => by rw [getD_spreadLens pairs (List.mem_range.mp hs)])

end

/-- A tree that is no leaf has its leaves below the root. -/
theorem HTree.lt_of_mem_depths_node {l r : HTree} {d : Nat} {p : Nat × Nat} (hp : p ∈ (HTree.node l r).depths d) :
    d < p.2 := by
  rcases List.mem_append.mp hp with hp | hp
  · exact l.le_of_mem_depths _ p hp
  · exact r.le_of_mem_depths _ p hp

theorem huffmanLengths_support (P : Config.Params) {freq : List Nat} (h : 2 ≤ (used freq).length) {s : Nat}
    (hs : s < freq.length) : (huffmanLengths P freq).getD s 0 = 0 ↔ freq.getD s 0 = 0 := by
  obtain ⟨l, r, hlengths, hperm⟩ := huffmanLengths_spec P h
  rw [hlengths]
  exact spreadLens_support (by rwa [HTree.depths_symbols])
    (fun p hp => Nat.ne_zero_of_lt (HTree.lt_of_mem_depths_node hp)) hs

theorem weighedPool_leaves (freq : List Nat) : WeighedPool freq (leaves freq) where
  sorted := leaves_sorted freq
  weight := fun x hx => by
    obtain ⟨hw, htree⟩ := leaves_mem hx
    simp [hw, htree, HTree.weight, HTree.symbols]

theorem poolCost_leaves (freq len : List Nat) :
    poolCost freq (leaves freq) (leafLengths freq len) = weightedLength freq len := by
  have hpath : ((leaves freq).map fun x => x.tree.pathWeight freq 0) = (leaves freq).map fun _ => 0 :=
    List.map_congr_left fun x hx => by simp [(leaves_mem hx).2, HTree.pathWeight, HTree.depths]
  rw [poolCost, pairedWeight, leafLengths, List.zipWith_map, List.zipWith_self, hpath, weightedLength_leaves]
  simp

/-- No code of the used symbols has a smaller sum of frequency times length than the greedy tree, whatever the limit
(R197). -/
theorem huffmanLengths_optimal (P : Config.Params) {freq other : List Nat} {limit : Nat} (h : 2 ≤ (used freq).length)
    (hother : Codable limit freq other) : weightedLength freq (huffmanLengths P freq) ≤ weightedLength freq other := by
  obtain ⟨root, hroot, hsymbols⟩ := mergePool_spec P freq.length freq.length 0 (leaves freq)
    (List.ne_nil_of_length_pos (by rw [leaves_length]; omega))
    (by have := used_length_le freq; rw [leaves_length]; omega)
  have hkeys : ((root.tree.depths 0).map Prod.fst).Perm ((used freq).map Prod.fst) := by
    rw [HTree.depths_symbols]
    exact hsymbols.trans (poolSymbols_leaves freq)
  rw [huffmanLengths, hroot]
  dsimp only
  rw [weightedLength_spreadLens hkeys, ← poolCost_leaves freq other]
  exact mergePool_optimal P freq.length freq.length 0 _ _ root (weighedPool_leaves freq) (by simp [leafLengths])
    hother.share_le hroot

/-- What `hc_build_freq` makes of at least two and at most `2^limit` used symbols. -/
structure BestLens (limit : Nat) (freq len : List Nat) : Prop where
  length  : len.length = freq.length
  good    : GoodLens limit len
  support : ∀ s, s < freq.length → (len.getD s 0 = 0 ↔ freq.getD s 0 = 0)
  least   : ∀ other, Codable limit freq other → weightedLength freq len ≤ weightedLength freq other

/-- Construction from frequencies makes a table, of the greedy lengths where they keep the limit and of those of
package-merge otherwise (R196). -/
theorem buildFreq_best (P : Config.Params) {limit : Nat} {freq : List Nat} (hlimit : 1 ≤ limit)
    (h2 : 2 ≤ (used freq).length) (hfits : (used freq).length ≤ 2 ^ limit) :
    ∃ len, buildFreq P limit freq = .table (Table.ofLens limit len) ∧ BestLens limit freq len := by
  have hguard : ¬(decide ((used freq).length < 2) || decide (2 ^ limit < (used freq).length)) = true := by
    simp only [Bool.or_eq_true, decide_eq_true_eq]
    omega
  rw [buildFreq]
  dsimp only
  rw [if_neg hguard]
  by_cases hmax : maxLen (huffmanLengths P freq) ≤ limit
  · obtain ⟨_, _, hlengths, -⟩ := huffmanLengths_spec P h2
    exact ⟨huffmanLengths P freq, if_pos hmax, by rw [hlengths, spreadLens_length],
      ⟨(maxLen_le_iff _ _).mp hmax, huffmanLengths_kraft P h2 hmax⟩, fun s => huffmanLengths_support P h2,
      fun other => huffmanLengths_optimal P h2⟩
  · obtain ⟨len, hlen, hsupport, hleast⟩ := packageMergeLengths_optimal hlimit h2 hfits
    obtain ⟨hlength, hle, hkraft⟩ := packageMergeLengths_spec hlimit h2 hlen
    exact ⟨len, by rw [if_neg hmax, hlen], hlength, ⟨hle, hkraft⟩, hsupport, hleast⟩

/-- Too few or too many used symbols make the construction fail (R203). -/
theorem buildFreq_failed (P : Config.Params) {limit : Nat} {freq : List Nat}
    (h : ¬(2 ≤ (used freq).length ∧ (used freq).length ≤ 2 ^ limit)) :
    buildFreq P limit freq = .failed (used freq).length := by
  have hguard : (decide ((used freq).length < 2) || decide (2 ^ limit < (used freq).length)) = true := by
    simp only [Bool.or_eq_true, decide_eq_true_eq]
    omega
  rw [buildFreq]
  exact if_pos hguard

theorem limit_pos_of_buildable {slot n limit : Nat} (h : Instr.buildable slot n limit = true) : 1 ≤ limit := by
  simp only [Instr.buildable, Bool.and_eq_true, decide_eq_true_eq] at h
  exact h.2

/-- Settles O39, by what the construction makes (`buildFreq_best`) or where it fails (`buildFreq_failed`). -/
theorem hcBuildFreqResult : Obligations.HcBuildFreqResult := by
  intro slot n limit s hclosed hbuildable freq u
  have hexec : exec (.hcBuildFreq slot n limit) s =
      s.answerBuilt slot.toNat (buildFreq params limit.toNat freq) := if_neg (State.accepts_build hclosed hbuildable)
  have hu : (used freq).length = u := used_length freq
  have hn : freq.length = n.toNat := by simp [freq]
  have hlimit := limit_pos_of_buildable hbuildable
  rw [← hu]
  refine ⟨fun ⟨h2, hfits⟩ => ?_, fun hnot => ?_⟩
  · obtain ⟨len, hbuilt, hbest⟩ := buildFreq_best params hlimit h2 hfits
    have hlength := hbest.length.trans hn
    rw [hexec, hbuilt, State.answerBuilt_table]
    exact ⟨_, rfl, rfl, hlength, rfl, hlength, rfl, hbest.good.complete hlimit (Nat.le_of_lt_succ limit.isLt),
      fun k hk => hbest.support k (hn ▸ hk)⟩
  · rw [hexec, buildFreq_failed params hnot, State.answerBuilt_failed]

/-- Settles O40, by the optimality of the greedy combination (`huffmanLengths_optimal`) and of package-merge
(`packageMergeLengths_optimal`). -/
theorem hcBuildFreqIsOptimal : Obligations.HcBuildFreqIsOptimal := by
  intro slot n limit s other hclosed hbuildable freq u h2 hfits hlength hsupport hle hkraft
  have hexec : exec (.hcBuildFreq slot n limit) s =
      s.answerBuilt slot.toNat (buildFreq params limit.toNat freq) := if_neg (State.accepts_build hclosed hbuildable)
  have hu : (used freq).length = u := used_length freq
  have hn : freq.length = n.toNat := by simp [freq]
  have hlimit := limit_pos_of_buildable hbuildable
  rw [← hu] at h2 hfits
  rw [← hn] at hlength hsupport
  obtain ⟨len, hbuilt, hbest⟩ := buildFreq_best params hlimit h2 hfits
  refine ⟨Table.ofLens limit.toNat len, by rw [hexec, hbuilt, State.answerBuilt_table], ?_⟩
  show (List.zipWith (· * ·) freq len).sum ≤ (List.zipWith (· * ·) freq other).sum
  rw [zipWith_mul_sum hbest.length, zipWith_mul_sum hlength]
  exact hbest.least other ⟨hlength, hsupport, hle, hkraft⟩

end Sys2Proof.Machine
end

section

namespace Sys2Proof.Machine

/-! ### The run of the MatchFinder, without its fuel (R236) -/

/-- A step moves forward (R237, R246). -/
theorem mfStep_forward {m : Mf} (w : Sw) (hp : m.pos < m.known) :
    (mfStep params m w).1.known = m.known ∧ m.pos < (mfStep params m w).1.pos := by
  have hindexed := m.indexed_act m.pos (m.choose params m.pos)
  obtain ⟨hone, -⟩ := Mf.act_choose_covers hp
  have hpos : (mfStep params m w).1.pos = m.pos + (m.act params m.pos (m.choose params m.pos)).2 :=
    congrArg (· + _) hindexed.pos
  exact ⟨congrArg List.length hindexed.input, by omega⟩

/-- When a step is allowed (R236). -/
theorem Mf.mayStep_iff {m : Mf} :
    m.mayStep = true ↔ m.pos < m.known ∧ (m.last = true ∨ m.level = 0 ∨ m.pos + 261 ≤ m.known) := by
  have hahead : 261 ≤ m.known - m.pos ↔ m.pos + 261 ≤ m.known := by omega
  simp only [Mf.mayStep, lookaheadMin, Bool.and_eq_true, Bool.or_eq_true, decide_eq_true_eq, beq_iff_eq, or_assoc,
    hahead]

theorem Mf.pos_lt_of_mayStep {m : Mf} (h : m.mayStep = true) : m.pos < m.known := (Mf.mayStep_iff.mp h).1

/-- Where a run stops (R236). -/
theorem Mf.stopped {m : Mf} (hp : m.pos ≤ m.known) (h : m.mayStep = false) :
    (m.last = true ∨ m.level = 0 → m.pos = m.known) ∧ m.known < m.pos + 261 := by
  rw [← Bool.not_eq_true, Mf.mayStep_iff] at h
  grind

theorem mfRunSteps_stop {m : Mf} (w : Sw) (h : m.mayStep = false) (fuel : Nat) :
    mfRunSteps params fuel m w = (m, w) := by
  cases fuel with
  | zero => rfl
  | succ fuel => rw [mfRunSteps, h]; rfl

/-- The bytes not yet covered bound the steps: more fuel than that changes nothing. -/
theorem mfRunSteps_fuel : ∀ (fuel fuel' : Nat) (m : Mf) (w : Sw), m.known - m.pos ≤ fuel →
    m.known - m.pos ≤ fuel' → mfRunSteps params fuel m w = mfRunSteps params fuel' m w := by
  intro fuel
  induction fuel with
  | zero =>
    intro fuel' m w hf _
    have hstop : m.mayStep = false := by
      have : ¬m.pos < m.known := by omega
      simp [Mf.mayStep, this]
    rw [mfRunSteps_stop w hstop, mfRunSteps_stop w hstop]
  | succ fuel ih =>
    intro fuel' m w hf hf'
    cases hmay : m.mayStep with
    | false => rw [mfRunSteps_stop w hmay, mfRunSteps_stop w hmay]
    | true =>
      have hp := Mf.pos_lt_of_mayStep hmay
      obtain ⟨hknown, hpos⟩ := mfStep_forward w hp
      obtain ⟨fuel', rfl⟩ := Nat.exists_eq_succ_of_ne_zero (show fuel' ≠ 0 by omega)
      rw [mfRunSteps, mfRunSteps, if_pos hmay, if_pos hmay]
      exact ih fuel' _ _ (by omega) (by omega)

theorem mfRun_stop {m : Mf} (w : Sw) (h : m.mayStep = false) : mfRun params m w = (m, w) := mfRunSteps_stop w h _

theorem mfRun_step {m : Mf} (w : Sw) (h : m.mayStep = true) :
    mfRun params m w = mfRun params (mfStep params m w).1 (mfStep params m w).2 := by
  have hp := Mf.pos_lt_of_mayStep h
  obtain ⟨hknown, hpos⟩ := mfStep_forward w hp
  obtain ⟨fuel, hfuel⟩ := Nat.exists_eq_succ_of_ne_zero (show m.known - m.pos ≠ 0 by omega)
  rw [mfRun, hfuel, mfRunSteps, if_pos h]
  exact mfRunSteps_fuel _ _ _ _ (by omega) (Nat.le_refl _)

/-- Induction along a run: it stops where no step is allowed, and else goes on after a step. -/
theorem mfRun_induction {motive : Mf → Sw → Mf × Sw → Prop}
    (stop : ∀ m w, m.mayStep = false → motive m w (m, w))
    (step : ∀ m w r, m.mayStep = true → motive (mfStep params m w).1 (mfStep params m w).2 r → motive m w r)
    (m : Mf) (w : Sw) : motive m w (mfRun params m w) := by
  induction hn : m.known - m.pos using Nat.strongRecOn generalizing m w with
  | ind n ih =>
    cases hmay : m.mayStep with
    | false => rw [mfRun_stop w hmay]; exact stop m w hmay
    | true =>
      have hp := Mf.pos_lt_of_mayStep hmay
      obtain ⟨hknown, hpos⟩ := mfStep_forward w hp
      rw [mfRun_step w hmay]
      exact step m w _ hmay (ih _ (by omega) _ _ rfl)

/-! ### What a search finds (R238, R240) -/

/-- A match of `length` bytes at distance `distance` from position `p` of the input (R238), in the bounds of R240. -/
structure IsMatch (input : List Byte) (p length distance : Nat) : Prop where
  long   : 3 ≤ length
  short  : length ≤ 258
  apart  : 1 ≤ distance
  near   : distance ≤ 32768
  back   : distance ≤ p
  inside : p + length ≤ input.length
  equal  : ∀ i, i < length → input[p - distance + i]? = input[p + i]?

theorem commonLen_equal : ∀ (limit : Nat) (xs ys : List Byte) (i : Nat), i < commonLen limit xs ys → xs[i]? = ys[i]?
  | 0, _, _, _, h => by simp [commonLen] at h
  | _ + 1, [], _, _, h => by simp [commonLen] at h
  | _ + 1, _ :: _, [], _, h => by simp [commonLen] at h
  | limit + 1, x :: xs, y :: ys, i, h => by
    rw [commonLen] at h
    split at h
    · rename_i hxy
      cases i with
      | zero => simp [hxy]
      | succ i => simpa using commonLen_equal limit xs ys i (by omega)
    · omega

/-- Bytes past the limit do not count. -/
theorem commonLen_append : ∀ (limit : Nat) {xs ys : List Byte} (xs' ys' : List Byte), limit ≤ xs.length →
    limit ≤ ys.length → commonLen limit (xs ++ xs') (ys ++ ys') = commonLen limit xs ys
  | 0, _, _, _, _, _, _ => by simp [commonLen]
  | _ + 1, [], _, _, _, h, _ => by simp at h
  | _ + 1, _ :: _, [], _, _, _, h => by simp at h
  | limit + 1, x :: xs, y :: ys, xs', ys', hx, hy => by
    simp only [List.cons_append, commonLen]
    rw [commonLen_append limit xs' ys' (Nat.le_of_succ_le_succ hx) (Nat.le_of_succ_le_succ hy)]

/-- The bytes a candidate has in common with the position are a match, if they are three or more. -/
theorem isMatch_commonLen {input : List Byte} {p c limit : Nat} (hcp : c < p) (hcap : p - c ≤ windowCap)
    (hmax : limit ≤ 258) (hin : p + limit ≤ input.length)
    (h3 : 3 ≤ commonLen limit (input.drop c) (input.drop p)) :
    IsMatch input p (commonLen limit (input.drop c) (input.drop p)) (p - c) := by
  have hle := commonLen_le limit (input.drop c) (input.drop p)
  refine ⟨h3, by omega, by omega, hcap, by omega, by omega, fun i hi => ?_⟩
  have hequal := commonLen_equal limit _ _ i hi
  rwa [List.getElem?_drop, List.getElem?_drop, ← Nat.sub_sub_self (Nat.le_of_lt hcp)] at hequal

/-- The walk's best, once it is three bytes long, is a match. -/
theorem Mf.walk_isMatch (m : Mf) {p limit : Nat} (hmax : limit ≤ 258) (hin : p + limit ≤ m.known) :
    ∀ (links : Nat) (c : Option Nat) (best dist : Nat), (3 ≤ best → IsMatch m.input p best dist) →
      3 ≤ (m.walk p limit links c best dist).1 →
      IsMatch m.input p (m.walk p limit links c best dist).1 (m.walk p limit links c best dist).2
  | 0, _, _, _, h => h
  | _ + 1, none, _, _, h => h
  | links + 1, some c, best, dist, h => by
    rw [Mf.walk]
    split
    · rename_i hc
      simp only [Bool.and_eq_true, decide_eq_true_eq] at hc
      have hfound := isMatch_commonLen (input := m.input) hc.1 hc.2 hmax hin
      dsimp only
      generalize commonLen limit (m.input.drop c) (m.input.drop p) = l at hfound ⊢
      have hbetter : 3 ≤ (if best < l then l else best) →
          IsMatch m.input p (if best < l then l else best) (if best < l then p - c else dist) := by
        split
        · exact hfound
        · exact h
      generalize (if best < l then l else best) = best' at hbetter ⊢
      generalize (if best < l then p - c else dist) = dist' at hbetter ⊢
      split
      · exact hbetter
      · exact m.walk_isMatch hmax hin links _ _ _ hbetter
    · exact h

/-- What a search answers is a match, unless it is shorter than three bytes (R238). -/
theorem Mf.search_isMatch (P : Config.Params) {m : Mf} {p : Nat} (hp : p ≤ m.known)
    (h : ¬(m.search P p).1 < minMatch) :
    IsMatch m.input p (m.search P p).1 (m.search P p).2 := by
  unfold Mf.search at h ⊢
  split at h
  · simp [minMatch] at h
  · dsimp only at h ⊢
    split at h
    · rename_i hmin
      rw [if_pos hmin]
      exact m.walk_isMatch (Nat.min_le_left _ _) (by omega) _ _ 2 0 (by omega) hmin
    · simp [minMatch] at h

/-! ### What a decision is (R237, R242) -/

/-- The tokens a decision emits. -/
def Decision.tokens (m : Mf) (p : Nat) : Decision → List Token
  | .plain => [m.literalAt p]
  | .fallback => [m.literalAt p]
  | .here l d => [.copy l d]
  | .lazily l d => [m.literalAt p, .copy l d]

/-- The match of a decision is one, at the position where its token stands. -/
def Decision.Sound (input : List Byte) (p : Nat) : Decision → Prop
  | .plain => True
  | .fallback => True
  | .here l d => IsMatch input p l d
  | .lazily l d => IsMatch input (p + 1) l d

theorem Mf.choose_sound {m : Mf} {p : Nat} (hp : p < m.known) : (m.choose params p).Sound m.input p := by
  have hinput : (m.insert params p).input = m.input := (m.indexed_insert p).input
  have hknown : (m.insert params p).known = m.known := congrArg List.length hinput
  unfold Mf.choose
  dsimp only
  split
  · trivial
  · split
    · trivial
    · rename_i hfirst
      have hhere := Mf.search_isMatch params (Nat.le_of_lt hp) hfirst
      split
      · split
        · rename_i hlonger
          have hsecond := Mf.search_isMatch params (m := m.insert params p) (p := p + 1) (by omega) (by omega)
          rwa [hinput] at hsecond
        · exact hhere
      · exact hhere

@[simp] theorem Mf.insert_tok (m : Mf) (q : Nat) : (m.insert params q).tok = m.tok := by
  unfold Mf.insert
  split <;> rfl

@[simp] theorem Mf.insertRange_tok : ∀ (k : Nat) (m : Mf) (q : Nat), (m.insertRange params q k).tok = m.tok
  | 0, _, _ => rfl
  | k + 1, m, q => (Mf.insertRange_tok k _ _).trans (m.insert_tok q)

@[simp] theorem Mf.emit_tok (m : Mf) (t : Token) : (m.emit t).tok = m.tok ++ [t.word] := rfl

/-- A decision appends its tokens (R237). -/
theorem Mf.act_tok (m : Mf) (p : Nat) (d : Decision) :
    (m.act params p d).1.tok = m.tok ++ (d.tokens m p).map Token.word := by
  cases d <;> simp [Mf.act, Decision.tokens]

/-- A decision covers what its tokens cover (R244). -/
theorem Mf.act_covers (m : Mf) (p : Nat) (d : Decision) :
    (m.act params p d).2 = ((d.tokens m p).map Token.covers).sum := by
  cases d <;> simp [Mf.act, Decision.tokens, Mf.literalAt, Token.covers]

/-! ### Tokens that cover a stretch of the input (R240, R244) -/

/-- Tokens that stand for the input bytes from position `p` to position `q`. -/
structure Covering (input : List Byte) (p : Nat) (tokens : List Token) (q : Nat) : Prop where
  bounds : tokensInBounds p tokens = true
  reach  : q = p + (tokens.map Token.covers).sum
  inside : q ≤ input.length
  bytes  : replay (input.take p) tokens = input.take q

theorem tokensInBounds_append : ∀ (tokens more : List Token) (p : Nat), tokensInBounds p (tokens ++ more) =
    (tokensInBounds p tokens && tokensInBounds (p + (tokens.map Token.covers).sum) more)
  | [], _, _ => by simp [tokensInBounds]
  | t :: rest, more, p => by
    simp [tokensInBounds, tokensInBounds_append rest more, Bool.and_assoc, Nat.add_assoc]

theorem replay_append (out : List Byte) (tokens more : List Token) :
    replay out (tokens ++ more) = replay (replay out tokens) more := List.foldl_append

theorem Covering.nil {input : List Byte} {p : Nat} (hp : p ≤ input.length) : Covering input p [] p :=
  ⟨rfl, rfl, hp, rfl⟩

theorem Covering.append {input : List Byte} {p q r : Nat} {tokens more : List Token} (h : Covering input p tokens q)
    (h' : Covering input q more r) : Covering input p (tokens ++ more) r where
  bounds := by rw [tokensInBounds_append, h.bounds, ← h.reach, h'.bounds]; rfl
  reach := by rw [h'.reach, h.reach, List.map_append, List.sum_append, Nat.add_assoc]
  inside := h'.inside
  bytes := by rw [replay_append, h.bytes, h'.bytes]

theorem Covering.le {input : List Byte} {p q : Nat} {tokens : List Token} (h : Covering input p tokens q) :
    p ≤ q := by
  have := h.reach
  omega

theorem Covering.literal {m : Mf} {p : Nat} (hp : p < m.known) : Covering m.input p [m.literalAt p] (p + 1) where
  bounds := rfl
  reach := rfl
  inside := hp
  bytes := by
    have hp : p < m.input.length := hp
    rw [List.take_add_one, List.getElem?_eq_getElem hp]
    simp [replay, replayToken, Mf.literalAt, hp]

/-- A match repeats the bytes before it with its distance as the period (R175). -/
theorem IsMatch.periodic {input : List Byte} {p l d : Nat} (h : IsMatch input p l d) (i : Nat) (hi : i < l) :
    input[p - d + i % d]? = input[p + i]? := by
  have hapart := h.apart
  have hback := h.back
  induction i using Nat.strongRecOn with
  | ind i ih =>
    rw [← h.equal i hi]
    by_cases hid : i < d
    · rw [Nat.mod_eq_of_lt hid]
    · have hearlier := ih (i - d) (by omega) (by omega)
      rw [Nat.mod_eq_sub_mod (Nat.not_lt.mp hid), hearlier]
      congr 1
      omega

theorem Covering.copy {input : List Byte} {p l d : Nat} (h : IsMatch input p l d) :
    Covering input p [.copy l d] (p + l) where
  bounds := by simp [tokensInBounds, tokenInBounds, h.long, h.short, h.apart, h.near, h.back]
  reach := rfl
  inside := h.inside
  bytes := by
    have hin := h.inside
    have hback := h.back
    have hlength : (input.take p).length = p := by rw [List.length_take]; omega
    simp only [replay, List.foldl_cons, List.foldl_nil, replayToken, hlength, List.take_add]
    congr 1
    refine List.ext_getElem (by simp; omega) fun i hi _ => ?_
    simp only [List.length_map, List.length_range] at hi
    have hmod : i % d < d := Nat.mod_lt _ h.apart
    have hperiodic := h.periodic i hi
    rw [List.getElem?_eq_getElem (show p + i < input.length by omega)] at hperiodic
    simp [List.getElem?_take_of_lt (show p - d + i % d < p by omega), hperiodic]

/-- The tokens of a sound decision cover the input from its position on. -/
theorem Decision.Sound.covering {m : Mf} {p : Nat} (hp : p < m.known) : ∀ {d : Decision}, d.Sound m.input p →
    Covering m.input p (d.tokens m p) (p + ((d.tokens m p).map Token.covers).sum)
  | .plain, _ => Covering.literal hp
  | .fallback, _ => Covering.literal hp
  | .here _ _, h => Covering.copy h
  | .lazily _ _, h => by
    have hboth := (Covering.literal hp).append (Covering.copy h)
    rw [hboth.reach] at hboth
    exact hboth

/-- Every token has 260 or more input bytes ahead, of `n`, from its own position on (R236). -/
def Lookahead (n p : Nat) (tokens : List Token) : Prop :=
  ∀ k, k < tokens.length → p + ((tokens.take k).map Token.covers).sum + 260 ≤ n

theorem Lookahead.nil {n p : Nat} : Lookahead n p [] := fun _ hk => absurd hk (Nat.not_lt_zero _)

theorem Lookahead.append {n p : Nat} {tokens more : List Token} (h : Lookahead n p tokens)
    (h' : Lookahead n (p + (tokens.map Token.covers).sum) more) : Lookahead n p (tokens ++ more) := by
  intro k hk
  rcases Nat.lt_or_ge k tokens.length with hlt | hge
  · rw [List.take_append_of_le_length (Nat.le_of_lt hlt)]
    exact h k hlt
  · obtain ⟨j, rfl⟩ := Nat.exists_eq_add_of_le hge
    rw [List.length_append] at hk
    have hlater := h' j (by omega)
    rw [List.take_length_add_append, List.map_append, List.sum_append]
    omega

/-- A decision with 261 bytes ahead leaves its second token, one byte later, 260 (R236, R242). -/
theorem Decision.lookahead {m : Mf} {p n : Nat} (h : p + 261 ≤ n) (d : Decision) : Lookahead n p (d.tokens m p) := by
  intro k hk
  have hcases : k = 0 ∨ k = 1 ∧ 2 ≤ (d.tokens m p).length := by
    have : (d.tokens m p).length ≤ 2 := by cases d <;> simp [Decision.tokens]
    omega
  rcases hcases with rfl | ⟨rfl, htwo⟩
  · simp; omega
  · cases d with
    | lazily l dist => simp [Decision.tokens, Mf.literalAt, Token.covers]; omega
    | plain | fallback | here => simp [Decision.tokens] at htwo

/-- There are no more tokens than bytes they cover. -/
theorem length_le_covers : ∀ (tokens : List Token) (p : Nat), tokensInBounds p tokens = true →
    tokens.length ≤ (tokens.map Token.covers).sum
  | [], _, _ => Nat.le_refl _
  | t :: rest, p, h => by
    simp only [tokensInBounds, Bool.and_eq_true] at h
    have hrest := length_le_covers rest _ h.2
    have hone : 1 ≤ t.covers := by
      cases t with
      | lit b => exact Nat.le_refl _
      | copy l d =>
        simp only [tokenInBounds, Bool.and_eq_true, decide_eq_true_eq] at h
        simp only [Token.covers]
        omega
    simp only [List.length_cons, List.map_cons, List.sum_cons]
    omega

/-! ### What a run does (R236, R244, R246) -/

/-- The MatchFinder and its window after `tokens` have been appended for the input bytes they cover. -/
structure Mf.Tokenized (m : Mf) (w : Sw) (tokens : List Token) (r : Mf × Sw) : Prop where
  ran      : m.RanTo r.1
  tok      : r.1.tok = m.tok ++ tokens.map Token.word
  covering : Covering m.input m.pos tokens r.1.pos
  window   : r.2 = w.pushAll ((m.input.take r.1.pos).drop m.pos)

theorem Mf.Tokenized.nil {m : Mf} {w : Sw} (hp : m.pos ≤ m.known) : m.Tokenized w [] (m, w) where
  ran := ⟨rfl, rfl, rfl, rfl, rfl, rfl⟩
  tok := (List.append_nil _).symm
  covering := .nil hp
  window := by simp

theorem Mf.Tokenized.append {m : Mf} {w : Sw} {tokens more : List Token} {r r' : Mf × Sw}
    (h : m.Tokenized w tokens r) (h' : r.1.Tokenized r.2 more r') : m.Tokenized w (tokens ++ more) r' where
  ran := h.ran.trans h'.ran
  tok := by rw [h'.tok, h.tok, List.map_append, List.append_assoc]
  covering := h.covering.append (h.ran.input ▸ h'.covering)
  window := by
    have hfirst := h.covering.le
    have hsecond := h'.covering.le
    have hsplit : r'.1.pos - m.pos = r.1.pos - m.pos + (r'.1.pos - r.1.pos) := by omega
    rw [h'.window, h.window, h.ran.input, ← pushAll_append, List.drop_take, List.drop_take, List.drop_take, hsplit,
      List.take_add, List.drop_drop, Nat.add_sub_cancel' hfirst]

/-- A step appends the tokens of the decision made at its position (R237). -/
theorem mfStep_tokenized {m : Mf} (w : Sw) (hp : m.pos < m.known) :
    m.Tokenized w ((m.choose params m.pos).tokens m m.pos) (mfStep params m w) := by
  have hindexed := m.indexed_act m.pos (m.choose params m.pos)
  have hpos : (mfStep params m w).1.pos = m.pos + (((m.choose params m.pos).tokens m m.pos).map Token.covers).sum := by
    rw [← m.act_covers]
    exact congrArg (· + _) hindexed.pos
  refine ⟨⟨hindexed.level, hindexed.opened, hindexed.last, hindexed.maxChain, hindexed.lazyThr, hindexed.input⟩,
    m.act_tok _ _, ?_, ?_⟩
  · rw [hpos]
    exact (Mf.choose_sound hp).covering hp
  · rw [hpos, List.drop_take, Nat.add_sub_cancel_left, ← m.act_covers]
    show w.pushAll (List.take _ (List.drop _ (m.act params m.pos _).1.input)) = _
    rw [hindexed.input, hindexed.pos]

/-- The run (R236): the tokens it appends, that it ends where no step is allowed, and how far it looks ahead. -/
theorem mfRun_tokenized (m : Mf) (w : Sw) (hp : m.pos ≤ m.known) :
    ∃ tokens, m.Tokenized w tokens (mfRun params m w) ∧ (mfRun params m w).1.mayStep = false ∧
      (m.last = false → m.level ≠ 0 → Lookahead m.known m.pos tokens) := by
  revert hp
  induction m, w using mfRun_induction with
  | stop m w hstop => exact fun hp => ⟨[], .nil hp, hstop, fun _ _ => .nil⟩
  | step m w r hmay ih =>
    intro _
    have hstep := mfStep_tokenized w (Mf.pos_lt_of_mayStep hmay)
    generalize mfStep params m w = r' at hstep ih
    have hknown : r'.1.known = m.known := congrArg List.length hstep.ran.input
    obtain ⟨tokens, hrun, hstop, hahead⟩ := ih (hknown ▸ hstep.covering.inside)
    refine ⟨_, hstep.append hrun, hstop, fun hlast hlevel => ?_⟩
    have hfar : m.pos + 261 ≤ m.known := by simpa [hlast, hlevel] using (Mf.mayStep_iff.mp hmay).2
    refine (Decision.lookahead hfar _).append ?_
    rw [← hstep.covering.reach, ← hknown]
    exact hahead (hstep.ran.last.trans hlast) (hstep.ran.level ▸ hlevel)

end Sys2Proof.Machine
end

section

namespace Sys2Proof.Machine

/-! ### `MF_RUN` and `MF_INIT` that are not refused (R231, R235) -/

/-- The MatchFinder with the source's bytes taken in and the end marked or not (R235). -/
def State.fed (s : State) (last : Bool) : Mf := { s.mf with input := s.mf.input ++ s.port.src, last := last }

/-- `MF_RUN` outside a session, of an open MatchFinder whose input has not ended (R235). -/
theorem exec_mfRun {s : State} (last : Bool) (hclosed : s.sessionOpen = false) (hopened : s.mf.opened = true)
    (hlast : s.mf.last = false) : ∃ t : State,
      exec (.mfRun last) s = (t.ok (t.mf.ntok - s.mf.ntok) s.port.src.length).finish ∧
      t = { s with mf := t.mf, sw := t.sw, port := { s.port with src := [] } } ∧
      (t.mf, t.sw) = mfRun params (s.fed last) s.sw := by
  refine ⟨(s.mfAbsorb last).mfRun params,
    if_neg (by simp [State.mfRefuses, hclosed, hopened, hlast]), rfl, ?_⟩
  have hfed : (s.mfAbsorb last).mf = s.fed last := by rw [State.mfAbsorb_mf, hlast, Bool.false_or, State.fed]
  rw [State.mfRun_mf, State.mfRun_sw, hfed]
  rfl

theorem exec_mfInit {s : State} {level : BitVec 4} (hclosed : s.sessionOpen = false) (hlevel : level.toNat ≤ 9) :
    exec (.mfInit level) s = .next ((s.mfInit params level.toNat).ok 0 0) := by
  show execMfInit level s = _
  rw [execMfInit, if_neg (by simp [hclosed]), if_neg (by omega)]

/-- A MatchFinder after a run is the one before with tokens appended, its position moved and its chains rewritten. -/
theorem Mf.Tokenized.eq_with {m : Mf} {w : Sw} {tokens : List Token} {r : Mf × Sw} (h : m.Tokenized w tokens r) :
    r.1 = { m with mfh := r.1.mfh, mfp := r.1.mfp, pos := r.1.pos, tok := m.tok ++ tokens.map Token.word } := by
  obtain ⟨⟨level, opened, last, maxChain, lazyThr, input⟩, tok, -, -⟩ := h
  rw [← level, ← opened, ← last, ← maxChain, ← lazyThr, ← input, ← tok]

/-- The counters after a run are within their ranges if they were before and the input is not too long (R26, U9). -/
theorem countersFit_of_tokenized {s t : State} {last : Bool} {tokens : List Token}
    (ht : t = { s with mf := t.mf, sw := t.sw, port := { s.port with src := [] } })
    (h : (s.fed last).Tokenized s.sw tokens (t.mf, t.sw))
    (hfit : s.countersFit = true) (hinput : s.mf.input.length + s.port.src.length < 2 ^ 63)
    (hcursor : s.sw.cursor < 2 ^ 63)
    (htok : s.mf.tok.length + (s.mf.input.length + s.port.src.length - s.mf.pos) < 2 ^ 32) :
    t.countersFit = true := by
  obtain ⟨htotal, hnbytes, -, -, -, hin, hout, hstart, -⟩ := (State.countersFit_iff s).mp hfit
  have hmore := length_le_covers _ _ h.covering.bounds
  have hreach : t.mf.pos = s.mf.pos + _ := h.covering.reach
  have hinside : t.mf.pos ≤ _ := h.covering.inside
  have hbytes : t.mf.input = _ := h.ran.input
  have htokens : t.mf.tok = _ := h.tok
  have hwindow : t.sw = _ := h.window
  rw [State.fed, List.length_append] at hinside
  have hpos : t.mf.pos < 2 ^ 64 := by omega
  have hlength : t.mf.input.length < 2 ^ 64 := by rw [hbytes, State.fed, List.length_append]; omega
  have hntok : t.mf.tok.length < 2 ^ 32 := by
    rw [htokens, List.length_append, List.length_map]
    dsimp only [State.fed]
    omega
  have hcursor' : t.sw.cursor < 2 ^ 64 := by
    rw [hwindow, pushAll_cursor, List.length_drop, List.length_take]
    dsimp only [State.fed]
    omega
  rw [ht]
  exact (State.countersFit_iff _).mpr ⟨htotal, hnbytes, hcursor', hpos, hlength, hin, hout, hstart, hntok⟩

/-! ### A run of equal bytes (R248) -/

theorem Mf.hashAt_eq (P : Config.Params) {m : Mf} {q : Nat} (h : q + 3 ≤ m.known) :
    m.hashAt P q = some (P.hash (m.input.getD q 0) (m.input.getD (q + 1) 0) (m.input.getD (q + 2) 0)) := by
  have h : q + 3 ≤ m.input.length := h
  rw [Mf.hashAt, List.drop_eq_getElem_cons (by omega), List.drop_eq_getElem_cons (by omega),
    List.drop_eq_getElem_cons (by omega)]
  simp [show q < m.input.length by omega, show q + 1 < m.input.length by omega, show q + 2 < m.input.length by omega]

theorem Mf.hashAt_of_equal_bytes {m : Mf} {n q : Nat} {b : Byte} (hinput : m.input = List.replicate n b)
    (hq : q + 3 ≤ n) : m.hashAt params q = some (hashDefault b b b) := by
  rw [Mf.hashAt_eq _ (by rwa [Mf.known, hinput, List.length_replicate]), hinput]
  simp [show q < n by omega, show q + 1 < n by omega, show q + 2 < n by omega, params]

/-- A search is made at a level but 0 and with three bytes ahead (R237). -/
theorem Mf.searches {m : Mf} {p : Nat} (hlevel : m.level ≠ 0) (hp : p + 3 ≤ m.known) :
    ¬(decide (m.level = 0) || decide (m.known - p < minMatch)) = true := by
  rw [Bool.or_eq_true, decide_eq_true_eq, decide_eq_true_eq, minMatch]
  omega

/-- A position whose chain is empty finds no match (R238). -/
theorem Mf.choose_of_no_head {m : Mf} {p h : Nat} (hlevel : m.level ≠ 0) (hp : p + 3 ≤ m.known)
    (hhash : m.hashAt params p = some h) (hhead : m.head h = none) : m.choose params p = .fallback := by
  have hsearch : m.search params p = (0, 0) := by
    rw [Mf.search, hhash]
    simp only [hhead]
    cases m.maxChain <;> simp [Mf.walk, minMatch]
  rw [Mf.choose, if_neg (Mf.searches hlevel hp), hsearch]
  rfl

/-- A match that reaches the end of the input is taken: the next position has no longer one (R242). -/
theorem Mf.choose_of_full_match {m : Mf} {p d : Nat} (hlevel : m.level ≠ 0) (hp : p + 3 ≤ m.known)
    (hsearch : m.search params p = (m.known - p, d)) : m.choose params p = .here (m.known - p) d := by
  have hnext := (m.insert params p).search_le params (p + 1)
  have hknown : (m.insert params p).known = m.known := congrArg List.length (m.indexed_insert p).input
  rw [Mf.choose, if_neg (Mf.searches hlevel hp), hsearch]
  simp only [minMatch]
  rw [if_neg (by omega)]
  split
  · rw [if_neg (by omega)]
  · rfl

/-- A first candidate that matches to the limit ends the walk (R238). -/
theorem Mf.walk_of_full_match {m : Mf} {p c limit links best : Nat} (dist : Nat) (hlinks : links ≠ 0) (hcp : c < p)
    (hcap : p - c ≤ windowCap) (hbest : best < limit)
    (hequal : commonLen limit (m.input.drop c) (m.input.drop p) = limit) :
    m.walk p limit links (some c) best dist = (limit, p - c) := by
  obtain ⟨links, rfl⟩ := Nat.exists_eq_succ_of_ne_zero hlinks
  rw [Mf.walk, hequal]
  simp [hcp, hcap, hbest]

theorem commonLen_replicate (b : Byte) : ∀ (limit k j : Nat), limit ≤ k → limit ≤ j →
    commonLen limit (List.replicate k b) (List.replicate j b) = limit
  | 0, _, _, _, _ => by simp [commonLen]
  | limit + 1, k + 1, j + 1, hk, hj => by
    simp [List.replicate_succ, commonLen, commonLen_replicate b limit k j (by omega) (by omega)]

/-- The second of a run of equal bytes finds the first: all bytes left match at distance 1. -/
theorem Mf.search_of_equal_bytes {m : Mf} {n h : Nat} {b : Byte} (hinput : m.input = List.replicate n b) (hlo : 4 ≤ n)
    (hhi : n ≤ 259) (hchain : m.maxChain ≠ 0) (hhash : m.hashAt params 1 = some h) (hhead : m.head h = some 0) :
    m.search params 1 = (m.known - 1, 1) := by
  have hknown : m.known = n := by rw [Mf.known, hinput, List.length_replicate]
  have hlimit : min maxMatch (m.known - 1) = n - 1 := by rw [hknown]; simp only [maxMatch]; omega
  have hequal : commonLen (n - 1) (m.input.drop 0) (m.input.drop 1) = n - 1 := by
    rw [hinput, List.drop_replicate, List.drop_replicate]
    exact commonLen_replicate b _ _ _ (by omega) (by omega)
  rw [Mf.search, hhash]
  simp only [← hknown] at hlimit hequal ⊢
  simp only [hlimit, hhead]
  rw [Mf.walk_of_full_match 0 hchain (by omega) (by decide) (by omega) hequal, if_pos (by simp only [minMatch]; omega)]

/-- A step that finds no match enters its position at the head of its chain (R239). -/
theorem mfStep_fallback_mfh {m : Mf} (w : Sw) {h : Nat} (hchoose : m.choose params m.pos = .fallback)
    (hhash : m.hashAt params m.pos = some h) : (mfStep params m w).1.mfh = m.mfh.set h (some m.pos) := by
  rw [mfStep, hchoose]
  simp [Mf.act, advance, Mf.emit, Mf.insert, hhash]

/-- A match to the end of the input is the last token of a run. -/
theorem mfRun_of_full_match {m : Mf} (w : Sw) {d : Nat} (hlast : m.last = true) (hp : m.pos < m.known)
    (hchoose : m.choose params m.pos = .here (m.known - m.pos) d) :
    (mfRun params m w).1.tok = m.tok ++ [(Token.copy (m.known - m.pos) d).word] := by
  have hstep := mfStep_tokenized w hp
  rw [hchoose] at hstep
  have hend : (mfStep params m w).1.mayStep = false := by
    have hknown : (mfStep params m w).1.known = m.known := congrArg List.length hstep.ran.input
    have hpos : (mfStep params m w).1.pos = m.pos + (m.known - m.pos) := hstep.covering.reach
    rw [← Bool.not_eq_true, Mf.mayStep_iff]
    omega
  rw [mfRun_step w (Mf.mayStep_iff.mpr ⟨hp, .inl hlast⟩), mfRun_stop _ hend, hstep.tok]
  rfl

/-- The tokens of a run of equal bytes, given at once to a fresh MatchFinder: a literal, then a match at distance 1. -/
theorem mfRun_of_equal_bytes {m : Mf} (w : Sw) {n : Nat} {b : Byte} (hinput : m.input = List.replicate n b)
    (hlo : 4 ≤ n) (hhi : n ≤ 259) (hlevel : m.level ≠ 0) (hchain : m.maxChain ≠ 0) (hlast : m.last = true)
    (hpos : m.pos = 0) (hheads : m.mfh = { fill := .all none, cells := [] }) :
    (mfRun params m w).1.tok = m.tok ++ [(Token.lit b).word, (Token.copy (n - 1) 1).word] := by
  have hknown : m.known = n := by rw [Mf.known, hinput, List.length_replicate]
  have hfirst : m.choose params m.pos = .fallback :=
    Mf.choose_of_no_head hlevel (by omega) (Mf.hashAt_of_equal_bytes hinput (by omega))
      (by rw [Mf.head, hheads]; exact Mem.get_all _ _)
  have hmfh := mfStep_fallback_mfh w hfirst (Mf.hashAt_of_equal_bytes hinput (by omega))
  have hstep := mfStep_tokenized w (show m.pos < m.known by omega)
  rw [hfirst] at hstep
  rw [mfRun_step w (Mf.mayStep_iff.mpr ⟨by omega, .inl hlast⟩)]
  obtain ⟨hran, htok, hcovering, -⟩ := hstep
  generalize mfStep params m w = r at hran htok hcovering hmfh ⊢
  have hinput' := hran.input.trans hinput
  have hknown' : r.1.known = n := by rw [Mf.known, hinput', List.length_replicate]
  have hpos' : r.1.pos = 1 := by rw [hcovering.reach, hpos]; rfl
  have hhead : r.1.head (hashDefault b b b) = some 0 := by
    rw [Mf.head, hmfh, Mem.get_set_same _ _ _ (by rw [hheads]; rfl), hpos]
  have hsearch := Mf.search_of_equal_bytes hinput' hlo hhi (hran.maxChain ▸ hchain)
    (Mf.hashAt_of_equal_bytes hinput' (by omega)) hhead
  have hsecond := Mf.choose_of_full_match (hran.level ▸ hlevel) (by omega) hsearch
  rw [← hpos'] at hsecond
  rw [mfRun_of_full_match r.2 (hran.last.trans hlast) (by omega) hsecond, htok, hpos', hknown']
  simp [Decision.tokens, Mf.literalAt, hinput, hpos, show 0 < n by omega]

/-! ### The run as a command (R235, R244, R248) -/

/-- `MF_RUN` appends tokens for the input bytes it covers (R235, R236, R244). -/
theorem exec_mfRun_tokenized {s : State} (last : Bool) (hclosed : s.sessionOpen = false) (hopened : s.mf.opened = true)
    (hlast : s.mf.last = false) (hpos : s.mf.pos ≤ s.mf.input.length) (hfit : s.countersFit = true)
    (hinput : s.mf.input.length + s.port.src.length < 2 ^ 63) (hcursor : s.sw.cursor < 2 ^ 63)
    (htok : s.mf.tok.length + (s.mf.input.length + s.port.src.length - s.mf.pos) < 2 ^ 32) :
    ∃ (t : State) (tokens : List Token), exec (.mfRun last) s = .next (t.ok tokens.length s.port.src.length) ∧
      t = { s with mf := t.mf, sw := t.sw, port := { s.port with src := [] } } ∧
      (t.mf, t.sw) = mfRun params (s.fed last) s.sw ∧
      (s.fed last).Tokenized s.sw tokens (t.mf, t.sw) ∧ t.mf.mayStep = false ∧
      (last = false → s.mf.level ≠ 0 → Lookahead (s.fed last).known s.mf.pos tokens) := by
  obtain ⟨t, hexec, ht, hend⟩ := exec_mfRun last hclosed hopened hlast
  have hstart : (s.fed last).pos ≤ (s.fed last).known := by
    rw [Mf.known, State.fed, List.length_append]
    exact Nat.le_add_right_of_le hpos
  obtain ⟨tokens, hrun, hstop, hahead⟩ := mfRun_tokenized (s.fed last) s.sw hstart
  rw [← hend] at hrun hstop
  have hntok : t.mf.ntok - s.mf.ntok = tokens.length := by
    have htokens : t.mf.tok = _ := hrun.tok
    rw [Mf.ntok, htokens, List.length_append, List.length_map]
    exact Nat.add_sub_cancel_left _ _
  have hcounters := countersFit_of_tokenized ht hrun hfit hinput hcursor htok
  rw [hntok, State.finish_of_fit (by exact hcounters)] at hexec
  exact ⟨t, tokens, hexec, ht, hend, hrun, hstop, hahead⟩

/-- The counters after `MF_INIT` (R231). -/
theorem State.countersFit_mfInit {s : State} (level : Nat) (h : s.countersFit = true) :
    (s.mfInit params level).countersFit = true := by
  obtain ⟨htotal, hnbytes, -, -, -, hin, hout, hstart, -⟩ := (State.countersFit_iff s).mp h
  exact (State.countersFit_iff _).mpr ⟨htotal, hnbytes, Nat.two_pow_pos 64, Nat.two_pow_pos 64, Nat.two_pow_pos 64,
    hin, hout, hstart, Nat.two_pow_pos 32⟩

/-- Every level but 0 follows a chain (R233). -/
theorem params_maxChain_pos {level : BitVec 4} (hlo : 1 ≤ level.toNat) (hhi : level.toNat ≤ 9) :
    (params.effort level.toNat).maxChain ≠ 0 := by
  rw [(params_effort level hhi).1]
  generalize level.toNat = l at hlo hhi
  interval_cases l <;> decide

/-- `MF_RUN 1` after `MF_INIT` on a run of equal bytes (R248 (a)). -/
theorem execAll_mfRun_of_equal_bytes {level : BitVec 4} {n : Nat} {b : Byte} {s : State} (hlevel : 1 ≤ level.toNat)
    (hlevel' : level.toNat ≤ 9) (hlo : 4 ≤ n) (hhi : n ≤ 259) (hclosed : s.sessionOpen = false)
    (hfit : s.countersFit = true) (hsrc : s.port.src = List.replicate n b) :
    ∃ t, execAll [.mfInit level, .mfRun true] s = .next t ∧
      t.mf.tok = [(Token.lit b).word, (Token.copy (n - 1) 1).word] := by
  have hlength : s.port.src.length = n := by rw [hsrc, List.length_replicate]
  obtain ⟨t, tokens, hexec, -, hend, -⟩ := exec_mfRun_tokenized (s := (s.mfInit params level.toNat).ok 0 0) true
    hclosed rfl rfl (Nat.zero_le _) (s.countersFit_mfInit level.toNat hfit)
    (by show 0 + s.port.src.length < 2 ^ 63; omega) (Nat.two_pow_pos 63)
    (by show 0 + (0 + s.port.src.length - 0) < 2 ^ 32; omega)
  refine ⟨_, by rw [execAll_cons _ (exec_mfInit hclosed hlevel'), execAll_cons _ hexec]; rfl, ?_⟩
  show (t.mf, t.sw).1.tok = _
  rw [hend]
  exact mfRun_of_equal_bytes _ hsrc hlo hhi (Nat.ne_of_gt hlevel) (params_maxChain_pos hlevel hlevel') rfl rfl rfl

/-- Settles O46: the run appends tokens that cover the input (`exec_mfRun_tokenized`); of equal bytes these are a
literal and a match (`execAll_mfRun_of_equal_bytes`). -/
theorem mfRunCoversInput : Obligations.MfRunCoversInput := by
  refine ⟨fun last s hclosed hopened hlast hpos hfit hinput hcursor htok => ?_,
    fun _ _ _ _ => execAll_mfRun_of_equal_bytes⟩
  obtain ⟨t, tokens, hexec, ht, -, hrun, hstop, hahead⟩ :=
    exec_mfRun_tokenized last hclosed hopened hlast hpos hfit hinput hcursor htok
  have hfinder : t.mf = _ := hrun.eq_with
  obtain ⟨⟨hlevel, -, hend, -, -, hbytes⟩, -, hcovering, hwindow⟩ := hrun
  dsimp only [State.fed] at hlevel hend hbytes hcovering hwindow
  rw [← hbytes] at hcovering hwindow
  obtain ⟨hall, hfew⟩ := Mf.stopped hcovering.inside hstop
  rw [hlevel, hend] at hall
  have hknown : (s.fed last).known = t.mf.input.length := congrArg List.length hbytes.symm
  refine ⟨t, tokens, hexec, ht, hfinder, hcovering.bounds, hcovering.reach, hcovering.inside, hcovering.bytes, hall,
    fun hopen hlevel => ⟨hfew, hknown ▸ hahead hopen hlevel⟩, ?_, ?_, hwindow⟩
  · rw [hwindow, pushAll_cap]
  · rw [hwindow, pushAll_cursor, List.length_drop, List.length_take, Nat.min_eq_left hcovering.inside]

end Sys2Proof.Machine
end

section

namespace Sys2Proof.Machine

/-! ### More input does not change what has been decided (R236, R247) -/

/-- The MatchFinder with more input, which is the last. -/
def Mf.extended (m : Mf) (more : List Byte) : Mf := { m with input := m.input ++ more, last := true }

theorem Mf.known_extended (m : Mf) (more : List Byte) : (m.extended more).known = m.known + more.length := by
  rw [Mf.known, Mf.extended, List.length_append]
  rfl

section
variable {m : Mf} {more : List Byte}

theorem Mf.drop_extended {q : Nat} (h : q ≤ m.known) : (m.extended more).input.drop q = m.input.drop q ++ more :=
  List.drop_append_of_le_length h

theorem Mf.literalAt_extended {p : Nat} (h : p < m.known) : (m.extended more).literalAt p = m.literalAt p := by
  rw [Mf.literalAt, Mf.literalAt, Mf.extended, List.getD_append _ _ _ _ h]

theorem Mf.hashAt_extended {q : Nat} (h : q + 3 ≤ m.known) :
    (m.extended more).hashAt params q = m.hashAt params q := by
  have h' : q + 2 < m.input.length := h
  rw [Mf.hashAt_eq _ h, Mf.hashAt_eq _ (by rw [Mf.known_extended]; omega), Mf.extended, List.getD_append _ _ _ _ h',
    List.getD_append _ _ _ _ (by omega), List.getD_append _ _ _ _ (by omega)]

theorem Mf.insert_extended {q : Nat} (h : q + 3 ≤ m.known) :
    (m.extended more).insert params q = (m.insert params q).extended more := by
  rw [Mf.insert, Mf.insert, Mf.hashAt_extended h]
  split <;> rfl

end

theorem Mf.insertRange_extended {more : List Byte} : ∀ (k : Nat) {m : Mf} {q : Nat}, q + k + 2 ≤ m.known →
    (m.extended more).insertRange params q k = (m.insertRange params q k).extended more
  | 0, _, _, _ => rfl
  | k + 1, m, q, h => by
    have hknown : (m.insert params q).known = m.known := congrArg List.length (m.indexed_insert q).input
    rw [Mf.insertRange, Mf.insert_extended (by omega)]
    exact Mf.insertRange_extended k (by omega)

/-- A walk compares no byte past its limit. -/
theorem Mf.walk_extended {m : Mf} {more : List Byte} {p limit : Nat} (h : p + limit ≤ m.known) :
    ∀ (links : Nat) (c : Option Nat) (best dist : Nat),
      (m.extended more).walk p limit links c best dist = m.walk p limit links c best dist
  | 0, _, _, _ => rfl
  | _ + 1, none, _, _ => rfl
  | links + 1, some c, best, dist => by
    rw [Mf.walk, Mf.walk]
    split
    · rename_i hc
      simp only [Bool.and_eq_true, decide_eq_true_eq] at hc
      have hcommon : commonLen limit ((m.extended more).input.drop c) ((m.extended more).input.drop p) =
          commonLen limit (m.input.drop c) (m.input.drop p) := by
        have hknown : m.input.length = m.known := rfl
        rw [Mf.drop_extended (by omega), Mf.drop_extended (by omega)]
        exact commonLen_append _ _ _ (by rw [List.length_drop]; omega) (by rw [List.length_drop]; omega)
      rw [hcommon]
      simp only [Mf.walk_extended h links]
      rfl
    · rfl

section
variable {m : Mf} {more : List Byte}

/-- With a longest match ahead, a search does not see the end of the input (R236). -/
theorem Mf.search_extended {p : Nat} (h : p + 258 ≤ m.known) :
    (m.extended more).search params p = m.search params p := by
  have hlimit : min maxMatch (m.known - p) = 258 := by rw [maxMatch]; omega
  have hlimit' : min maxMatch ((m.extended more).known - p) = 258 := by rw [maxMatch, Mf.known_extended]; omega
  rw [Mf.search, Mf.search, Mf.hashAt_extended (by omega), hlimit, hlimit']
  simp only [Mf.walk_extended h]
  rfl

/-- At level 0 every byte is a literal (R232). -/
theorem Mf.choose_of_level_zero {m : Mf} (p : Nat) (h : m.level = 0) : m.choose params p = .plain :=
  if_pos (by simp [h])

/-- A decision that needs no bytes ahead, or has `LOOKAHEAD_MIN` of them (R236). -/
theorem Mf.choose_extended {p : Nat} (h : m.level = 0 ∨ p + 261 ≤ m.known) :
    (m.extended more).choose params p = m.choose params p := by
  rcases Nat.eq_zero_or_pos m.level with hzero | hlevel
  · rw [Mf.choose_of_level_zero p hzero, Mf.choose_of_level_zero p (m := m.extended more) hzero]
  · have hahead : p + 261 ≤ m.known := h.resolve_left (Nat.ne_of_gt hlevel)
    have hknown : (m.insert params p).known = m.known := congrArg List.length (m.indexed_insert p).input
    have hlazy : minMatch ≤ (m.extended more).known - (p + 1) ↔ minMatch ≤ m.known - (p + 1) := by
      rw [Mf.known_extended, minMatch]; omega
    have hsearches := Mf.searches (m := m.extended more) (p := p) (Nat.ne_of_gt hlevel)
      (by rw [Mf.known_extended]; omega)
    rw [Mf.choose, Mf.choose, if_neg hsearches, if_neg (Mf.searches (Nat.ne_of_gt hlevel) (by omega)),
      Mf.search_extended (by omega), Mf.insert_extended (by omega), Mf.search_extended (by omega)]
    simp only [hlazy]
    rfl

theorem Mf.emit_extended (m : Mf) (t : Token) : (m.extended more).emit t = (m.emit t).extended more := rfl

/-- What a decision does needs no more than 261 bytes ahead: it inserts no position from `p + 259` on (R236). -/
theorem Mf.act_extended {p : Nat} {d : Decision} (hp : p < m.known) (hsound : d.Sound m.input p)
    (h : d = .plain ∨ p + 261 ≤ m.known) :
    (m.extended more).act params p d = ((m.act params p d).1.extended more, (m.act params p d).2) := by
  have hinsert := (m.indexed_insert p).input
  cases d with
  | plain => rw [Mf.act, Mf.literalAt_extended hp]; rfl
  | fallback =>
    have hahead := h.resolve_left nofun
    rw [Mf.act, Mf.literalAt_extended hp, Mf.insert_extended (by omega)]
    rfl
  | here l dist =>
    have hahead := h.resolve_left nofun
    have hshort := hsound.short
    have hknown : ((m.insert params p).emit (.copy l dist)).known = m.known := congrArg List.length hinsert
    rw [Mf.act, Mf.insert_extended (by omega), Mf.emit_extended, Mf.insertRange_extended _ (by omega)]
    rfl
  | lazily l dist =>
    have hahead := h.resolve_left nofun
    have hshort := hsound.short
    have hfirst : ((m.insert params p).emit (m.literalAt p)).known = m.known := congrArg List.length hinsert
    have hsecond : ((((m.insert params p).emit (m.literalAt p)).insert params (p + 1)).emit (.copy l dist)).known =
        m.known := congrArg List.length ((Mf.indexed_insert _ _).input.trans hinsert)
    rw [Mf.act, Mf.literalAt_extended hp, Mf.insert_extended (by omega), Mf.emit_extended,
      Mf.insert_extended (by omega), Mf.emit_extended, Mf.insertRange_extended _ (by omega)]
    rfl

theorem advance_extended {k : Nat} (w : Sw) (h : m.pos + k ≤ m.known) :
    advance (m.extended more) w k = ((advance m w k).1.extended more, (advance m w k).2) := by
  have hbytes : ((m.extended more).input.drop m.pos).take k = (m.input.drop m.pos).take k := by
    rw [Mf.drop_extended (by omega), List.take_append_of_le_length]
    rw [List.length_drop]
    exact Nat.le_sub_of_add_le' h
  simp only [advance]
  rw [← hbytes]
  rfl

/-- A step with enough bytes ahead is the same with more input (R236). -/
theorem mfStep_extended (w : Sw) (hp : m.pos < m.known) (h : m.level = 0 ∨ m.pos + 261 ≤ m.known) :
    mfStep params (m.extended more) w = ((mfStep params m w).1.extended more, (mfStep params m w).2) := by
  have hindexed := m.indexed_act m.pos (m.choose params m.pos)
  have hinside : m.pos + (m.act params m.pos (m.choose params m.pos)).2 ≤ m.known := (Mf.act_choose_covers hp).2
  have hact := Mf.act_extended (more := more) hp (Mf.choose_sound hp) (h.imp_left (m.choose_of_level_zero m.pos))
  have hchoose : (m.extended more).choose params m.pos = m.choose params m.pos := Mf.choose_extended h
  show advance ((m.extended more).act params m.pos ((m.extended more).choose params m.pos)).1 w
    ((m.extended more).act params m.pos ((m.extended more).choose params m.pos)).2 = _
  rw [hchoose, hact]
  refine advance_extended w ?_
  rwa [hindexed.pos, Mf.known, hindexed.input]

end

theorem mfRun_ranTo (m : Mf) (w : Sw) : m.RanTo (mfRun params m w).1 := by
  induction m, w using mfRun_induction with
  | stop m w hstop => exact ⟨rfl, rfl, rfl, rfl, rfl, rfl⟩
  | step m w r hmay ih => exact (mfStep_tokenized w (Mf.pos_lt_of_mayStep hmay)).ran.trans ih

/-- A run that goes on with more input ends where a run over all of it does (R247). -/
theorem mfRun_extended (more : List Byte) (m : Mf) (w : Sw) (hopen : m.last = false) :
    mfRun params (m.extended more) w = mfRun params ((mfRun params m w).1.extended more) (mfRun params m w).2 := by
  revert hopen
  induction m, w using mfRun_induction with
  | stop m w hstop => exact fun _ => rfl
  | step m w r hmay ih =>
    intro hopen
    obtain ⟨hp, hahead⟩ := Mf.mayStep_iff.mp hmay
    have hmay' : (m.extended more).mayStep = true :=
      Mf.mayStep_iff.mpr ⟨by rw [Mf.known_extended]; exact Nat.lt_add_right _ hp, .inl rfl⟩
    rw [mfRun_step w hmay', mfStep_extended w hp (by simpa [hopen] using hahead)]
    exact ih ((mfStep_tokenized w hp).ran.last.trans hopen)

/-- What an `MF_RUN` that completes has run, and what it leaves of the checks of the next one (R235). -/
theorem mfRun_of_exec {s t : State} {last : Bool} (hclosed : s.sessionOpen = false) (hopened : s.mf.opened = true)
    (hlast : s.mf.last = false) (h : exec (.mfRun last) s = .next t) :
    (t.mf, t.sw) = mfRun params (s.fed last) s.sw ∧
      t.sessionOpen = false ∧ t.mf.opened = true ∧ t.mf.last = last := by
  obtain ⟨t', hexec, ht', hend⟩ := exec_mfRun last hclosed hopened hlast
  obtain ⟨-, rfl⟩ := State.finish_next.mp (hexec.symm.trans h)
  have hran := mfRun_ranTo (s.fed last) s.sw
  rw [← hend] at hran
  refine ⟨hend, ?_, hran.opened.trans hopened, hran.last⟩
  rw [ht']
  exact hclosed

/-- Settles O47: the second run goes on as one run over all the input would (`mfRun_extended`). -/
theorem mfRunChunksDoNotMatter : Obligations.MfRunChunksDoNotMatter := by
  intro s t1 t2 u part rest hclosed hopened hlast _ h1 h2 hu
  obtain ⟨hrun1, hclosed1, hopened1, hlast1⟩ := mfRun_of_exec (s := s.setSrc part) hclosed hopened hlast h1
  obtain ⟨hrun2, -⟩ := mfRun_of_exec (s := t1.setSrc rest) hclosed1 hopened1 hlast1 h2
  obtain ⟨hrun, -⟩ := mfRun_of_exec (s := s.setSrc (part ++ rest)) hclosed hopened hlast hu
  have hwhole : ((s.setSrc part).fed false).extended rest = (s.setSrc (part ++ rest)).fed true := by
    simp only [State.fed, State.setSrc, Mf.extended, List.append_assoc]
  have hsame : (t2.mf, t2.sw) = (u.mf, u.sw) := calc
    (t2.mf, t2.sw) = mfRun params (t1.mf.extended rest) t1.sw := hrun2
    _ = mfRun params (((s.setSrc part).fed false).extended rest) (s.setSrc part).sw := by
      rw [mfRun_extended rest ((s.setSrc part).fed false) _ rfl, ← hrun1]
    _ = mfRun params ((s.setSrc (part ++ rest)).fed true) s.sw := by rw [hwhole]; rfl
    _ = (u.mf, u.sw) := hrun.symm
  exact Prod.ext_iff.mp hsame

end Sys2Proof.Machine
end

section

namespace Sys2Proof.Machine

/-! ### The bits of channel operations (R145, R156, R282) -/

theorem opsBits_cons (t0 : Nat) (op : WOp) (rest : List WOp) :
    opsBits t0 (op :: rest) = op.bitsAt t0 + opsBits (t0 + op.bitsAt t0) rest := rfl

theorem opsBits_append : ∀ (xs ys : List WOp) (t0 : Nat),
    opsBits t0 (xs ++ ys) = opsBits t0 xs + opsBits (t0 + opsBits t0 xs) ys
  | [], ys, t0 => by simp [opsBits]
  | op :: xs, ys, t0 => by
    rw [List.cons_append, opsBits_cons, opsBits_append xs ys, opsBits_cons, Nat.add_assoc t0, Nat.add_assoc]

theorem runOps_append (P : Config.Params) : ∀ (xs ys : List WOp) (c : Bc), runOps P c (xs ++ ys) =
    ((runOps P (runOps P c xs).1 ys).1, (runOps P c xs).2 ++ (runOps P (runOps P c xs).1 ys).2)
  | [], _, _ => rfl
  | .bits v n :: xs, ys, c => by simp [runOps, runOps_append P xs ys, List.append_assoc]
  | .align :: xs, ys, c => by simp [runOps, runOps_append P xs ys, List.append_assoc]

/-- A writing channel counts the bits of the operations it runs, puts their full bytes and keeps the rest pending
(R145, R156). -/
theorem runOps_counts (P : Config.Params) : ∀ (ops : List WOp) (c : Bc), c.nbits = c.total % 8 →
    (runOps P c ops).1.total = c.total + opsBits c.total ops ∧
      (runOps P c ops).1.nbits = (c.nbits + opsBits c.total ops) % 8 ∧
      (runOps P c ops).2.length = (c.nbits + opsBits c.total ops) / 8
  | [], c, hc => by simp [runOps, opsBits]; omega
  | op :: rest, c, hc => by
    obtain ⟨v, hrun⟩ : ∃ v, runOps P c (op :: rest) =
        ((runOps P (c.write P v (op.bitsAt c.total)).1 rest).1,
          (c.write P v (op.bitsAt c.total)).2 ++ (runOps P (c.write P v (op.bitsAt c.total)).1 rest).2) := by
      cases op with
      | bits v n => exact ⟨v, rfl⟩
      | align =>
        have hpad : c.padding = WOp.align.bitsAt c.total := by rw [Bc.padding, hc]; rfl
        exact ⟨0, by rw [← hpad]; rfl⟩
    obtain ⟨hlength, hnbits, -, htotal, -⟩ := Bc.write_spec P c v (op.bitsAt c.total)
    obtain ⟨htotal', hnbits', hlength'⟩ := runOps_counts P rest (c.write P v (op.bitsAt c.total)).1 (by omega)
    rw [hrun, opsBits_cons]
    rw [htotal] at htotal' hnbits' hlength'
    dsimp only
    refine ⟨by rw [htotal', Nat.add_assoc], by omega, ?_⟩
    rw [List.length_append, hlength, hlength']
    omega

/-! ### The bits of each kind of block (R264, R269, R271) -/

theorem opsBits_putToken (ll d : Table) (t0 : Nat) (t : Token) : opsBits t0 (putToken ll d t) = tokenBits ll d t := by
  cases t with
  | lit b => rfl
  | copy length distance => simp only [putToken, opsBits, putCode, putBits, WOp.bitsAt, tokenBits]; omega

theorem opsBits_flatten {α : Type} {ops : α → List WOp} {cost : α → Nat} (h : ∀ t0 x, opsBits t0 (ops x) = cost x) :
    ∀ (xs : List α) (t0 : Nat), opsBits t0 (xs.map ops).flatten = (xs.map cost).sum
  | [], _ => rfl
  | x :: xs, t0 => by
    rw [List.map_cons, List.flatten_cons, opsBits_append, h, opsBits_flatten h xs, List.map_cons, List.sum_cons]

/-- The tokens of a block and its end-of-block code (R263, R276). -/
theorem opsBits_putTokens (ll d : Table) (t0 : Nat) (tokens : List Token) :
    opsBits t0 (putTokens ll d tokens) = tokbits ll d tokens + (ll.codeOf 256).2 := by
  rw [putTokens, opsBits_append, opsBits_flatten (opsBits_putToken ll d)]
  rfl

theorem opsBits_emitFixed (t0 : Nat) (tokens : List Token) (final : Bool) :
    opsBits t0 (emitFixed tokens final) = fixedCost tokens := by
  have hend : (fixedLit.codeOf 256).2 = 7 := by rw [fixedLit_codeOf (by decide)]; rfl
  rw [emitFixed, opsBits_append, opsBits_putTokens, hend, fixedCost, Nat.add_assoc]
  rfl

theorem opsBits_putRun (cl : Table) (t0 : Nat) (p : Nat × Nat) :
    opsBits t0 (putRun cl p) = (cl.codeOf p.1).2 + clExtra p.1 := by
  unfold putRun clExtra
  split_ifs with h16 h17 h18
  · rw [h16]; rfl
  · rw [h17]; rfl
  · rw [h18]; rfl
  · rfl

/-- Fields of one width. -/
theorem opsBits_map_putBits {α : Type} (value : α → Nat) (width : Nat) : ∀ (xs : List α) (t0 : Nat),
    opsBits t0 (xs.map fun x => putBits (value x) width) = width * xs.length
  | [], _ => rfl
  | x :: xs, t0 => by
    rw [List.map_cons, opsBits_cons, opsBits_map_putBits value width xs, List.length_cons, Nat.mul_succ, Nat.add_comm]
    rfl

theorem clordLens_length (cl : Table) : (clordLens cl).length = 19 := by rw [clordLens, List.length_map]; rfl

theorem lastUsed_le (xs : List Nat) : lastUsed xs ≤ xs.length := Nat.sub_le _ _

/-- No more than the 19 lengths of the code-length code are written (R265). -/
theorem dynPlan_ncl_le {P : Config.Params} {tokens : List Token} {plan : DynPlan} (h : dynPlan P tokens = .ok plan) :
    plan.ncl ≤ 19 := by
  have hlast : ∀ cl, max 4 (lastUsed (clordLens cl)) ≤ 19 := fun cl =>
    Nat.max_le.mpr ⟨by decide, clordLens_length cl ▸ lastUsed_le _⟩
  simp only [dynPlan, dynPlanOf] at h
  split at h
  · cases h
  split at h
  · cases h
  split at h
  · cases h
  cases h
  exact hlast _

theorem opsBits_emitDynamic {plan : DynPlan} (hncl : plan.ncl ≤ 19) (t0 : Nat) (tokens : List Token) (final : Bool) :
    opsBits t0 (emitDynamic tokens plan final) = dynCost plan tokens := by
  have hlengths : ((clordLens plan.cl).take plan.ncl).length = plan.ncl := by
    rw [List.length_take, clordLens_length]
    omega
  have hhead : ∀ a b c d e : Nat, opsBits t0 [putBits a 1, putBits b 2, putBits c 5, putBits d 5, putBits e 4] = 17 :=
    fun _ _ _ _ _ => rfl
  rw [emitDynamic, opsBits_append, opsBits_append, opsBits_append, hhead, opsBits_map_putBits (fun l => l), hlengths,
    opsBits_flatten (opsBits_putRun plan.cl), opsBits_putTokens, dynCost]
  omega

/-- A stored block pads to a byte boundary before its lengths (R273). -/
theorem opsBits_storedBlock (t0 : Nat) (final : Bool) (piece : List Byte) :
    opsBits t0 (storedBlock final piece) = 3 + (8 - (t0 + 3) % 8) % 8 + 32 + 8 * piece.length := by
  rw [storedBlock, opsBits_append, opsBits_map_putBits]
  simp only [opsBits, putBits, WOp.bitsAt]
  omega

/-- Every piece after the first begins on a byte boundary and pads five bits (R271, R273). -/
theorem opsBits_storedBlocks (final : Bool) : ∀ (k : Nat) (raw : List Byte) (t0 : Nat),
    opsBits t0 (storedBlocks final (k + 1) raw) =
      3 + (8 - (t0 + 3) % 8) % 8 + 32 * (k + 1) + 8 * raw.length + 8 * k
  | 0, raw, t0 => opsBits_storedBlock t0 final raw
  | k + 1, raw, t0 => by
    have hsplit : (raw.take storedMax).length + (raw.drop storedMax).length = raw.length := by
      rw [← List.length_append, List.take_append_drop]
    rw [storedBlocks, opsBits_append, opsBits_storedBlock, opsBits_storedBlocks final k]
    omega

theorem opsBits_emitStored (t0 : Nat) (raw : List Byte) (final : Bool) :
    opsBits t0 (emitStored raw final) = storedCost t0 raw.length := by
  obtain ⟨k, hk⟩ := Nat.exists_eq_succ_of_ne_zero (show storedPieces raw.length ≠ 0 by rw [storedPieces]; omega)
  rw [emitStored, storedCost, hk, opsBits_storedBlocks, Nat.succ_sub_one]

/-- Settles O54: the channel's counts (`runOps_counts`), and the bits of each kind, piece by piece. -/
theorem costsAreExact : Obligations.CostsAreExact := by
  refine ⟨fun P c ops hc hmode => ?_, fun tokens final t0 => opsBits_emitFixed t0 tokens final,
    fun P tokens plan final t0 hplan => opsBits_emitDynamic (dynPlan_ncl_le hplan) t0 tokens final,
    fun raw final t0 => opsBits_emitStored t0 raw final⟩
  obtain ⟨htotal, -, hlength⟩ := runOps_counts P ops c (hc.pending hmode).2.symm
  exact ⟨htotal, hlength⟩

end Sys2Proof.Machine
end

section

namespace Sys2Proof.Machine

/-! ### Frequencies of symbols (R265, R270) -/

theorem getD_bump {f : List Nat} {i s : Nat} (hi : i < f.length) :
    (bump f i).getD s 0 = if s = i then f.getD i 0 + 1 else f.getD s 0 := by
  rw [bump, List.getD_eq_getElem?_getD, List.getElem?_set]
  by_cases h : s = i
  · subst h
    simp [hi]
  · simp [h, Ne.symm h]

theorem bump_of_le {f : List Nat} {i : Nat} (hi : f.length ≤ i) : bump f i = f := List.set_eq_of_length_le hi

theorem bump_keeps_used {f : List Nat} {s : Nat} (i : Nat) (h : f.getD s 0 ≠ 0) : (bump f i).getD s 0 ≠ 0 := by
  rcases Nat.lt_or_ge i f.length with hi | hi
  · rw [getD_bump hi]
    split
    · exact Nat.succ_ne_zero _
    · exact h
  · rwa [bump_of_le hi]

/-- A symbol counted is used. -/
theorem foldl_bump_used : ∀ (symbols : List Nat) {f : List Nat} {s : Nat}, s < f.length →
    s ∈ symbols ∨ f.getD s 0 ≠ 0 → (symbols.foldl bump f).getD s 0 ≠ 0
  | [], _, _, _, h => by simpa using h
  | i :: symbols, f, s, hs, h => by
    refine foldl_bump_used symbols (by rwa [bump_length]) ?_
    rcases h with h | h
    · rcases List.mem_cons.mp h with rfl | h
      · refine .inr ?_
        rw [getD_bump hs, if_pos rfl]
        exact Nat.succ_ne_zero _
      · exact .inl h
    · exact .inr (bump_keeps_used i h)

/-- The frequencies of the symbols of a list in an alphabet of `n`. -/
def symbolFreq (n : Nat) (symbols : List Nat) : List Nat := symbols.foldl bump (List.replicate n 0)

theorem symbolFreq_length (n : Nat) (symbols : List Nat) : (symbolFreq n symbols).length = n := by
  rw [symbolFreq, foldl_length bump_length, List.length_replicate]

/-- The literal/length symbol of a token (R112). -/
def Token.litSymbol : Token → Nat
  | .lit b => b.toNat
  | .copy length _ => 257 + lsym length

/-- The distance symbol of a token (R112). -/
def Token.distSymbol : Token → Option Nat
  | .lit _ => none
  | .copy _ distance => some (dsym distance)

theorem litFreq_eq (tokens : List Token) : litFreq tokens = symbolFreq 286 (tokens.map Token.litSymbol ++ [256]) := by
  rw [litFreq, symbolFreq, List.foldl_append, List.foldl_map]
  congr 1
  refine congrArg (List.foldl · _ tokens) ?_
  funext f t
  cases t <;> rfl

theorem distFreq_eq (tokens : List Token) : distFreq tokens = symbolFreq 30 (tokens.filterMap Token.distSymbol) := by
  rw [distFreq, symbolFreq, List.foldl_filterMap]
  refine congrArg (List.foldl · _ tokens) ?_
  funext f t
  cases t <;> rfl

theorem clFreq_eq (runs : List (Nat × Nat)) : clFreq runs = symbolFreq 19 (runs.map Prod.fst) := by
  rw [clFreq, symbolFreq, List.foldl_map]

theorem fillZero_keeps_used : ∀ {f : List Nat} {s : Nat}, f.getD s 0 ≠ 0 → (fillZero f).getD s 0 ≠ 0
  | [], _, h => h
  | x :: rest, s, h => by
    rw [fillZero]
    cases s with
    | zero =>
      rw [if_neg (show ¬x = 0 from h)]
      exact h
    | succ s =>
      split
      · exact h
      · exact fillZero_keeps_used (f := rest) h

/-- One more symbol is used, if there is one that was not (R270). -/
theorem used_fillZero : ∀ {f : List Nat}, (used f).length < f.length → (used (fillZero f)).length = (used f).length + 1
  | x :: rest, h => by
    simp only [used_length] at h ⊢
    rw [fillZero]
    by_cases hx : x = 0
    · simp [hx]
    · have ih := used_fillZero (f := rest)
      simp only [used_length] at ih
      simp only [ne_eq, hx, not_false_eq_true, decide_true, List.filter_cons_of_pos, List.length_cons, if_false] at h ⊢
      rw [ih (by simpa using h)]

theorem guard2_keeps_used {f : List Nat} {s : Nat} (h : f.getD s 0 ≠ 0) : (guard2 f).getD s 0 ≠ 0 := by
  unfold guard2
  split
  · exact fillZero_keeps_used (fillZero_keeps_used h)
  · exact fillZero_keeps_used h
  · exact h

/-- The encoder's guard leaves at least two used symbols (R270). -/
theorem two_le_used_guard2 {f : List Nat} (h2 : 2 ≤ f.length) : 2 ≤ (used (guard2 f)).length := by
  unfold guard2
  split
  · rename_i h0
    have h1 := used_fillZero (f := f) (by omega)
    rw [used_fillZero (by rw [fillZero_length]; omega)]
    omega
  · rename_i h1
    rw [used_fillZero (by omega)]
    omega
  · omega

/-! ### Tables made for the symbols of a list (R196, R265) -/

/-- A table of a construction over an alphabet of `n` symbols in which the symbols of a list have codes. -/
structure Table.CodesFor (t : Table) (limit n : Nat) (symbols : List Nat) : Prop where
  lens  : t = Table.ofLens limit t.len
  size  : t.len.length = n
  good  : GoodLens limit t.len
  codes : ∀ s ∈ symbols, s < n → t.len.getD s 0 ≠ 0

/-- Construction from guarded frequencies never fails (R203, R270). -/
theorem buildFreq_guard2 (P : Config.Params) {limit n : Nat} (symbols : List Nat) (hlimit : 1 ≤ limit) (h2 : 2 ≤ n)
    (hn : n ≤ 2 ^ limit) :
    ∃ t, buildFreq P limit (guard2 (symbolFreq n symbols)) = .table t ∧ t.CodesFor limit n symbols := by
  have hlength : (guard2 (symbolFreq n symbols)).length = n := by rw [guard2_length, symbolFreq_length]
  obtain ⟨len, hbuilt, hbest⟩ := buildFreq_best P hlimit
    (two_le_used_guard2 (f := symbolFreq n symbols) (by rwa [symbolFreq_length]))
    (Nat.le_trans (used_length_le _) (by rwa [hlength]))
  refine ⟨_, hbuilt, rfl, hbest.length.trans hlength, hbest.good, fun s hs hlt => ?_⟩
  exact mt (hbest.support s (by rwa [hlength])).mp
    (guard2_keeps_used (foldl_bump_used symbols (by rwa [List.length_replicate]) (.inl hs)))

/-- What the plan of a dynamic block is (R265). -/
structure PlanFor (tokens : List Token) (plan : DynPlan) : Prop where
  ll    : plan.ll.CodesFor 15 286 (tokens.map Token.litSymbol ++ [256])
  d     : plan.d.CodesFor 15 30 (tokens.filterMap Token.distSymbol)
  cl    : plan.cl.CodesFor 7 19 (plan.runs.map Prod.fst)
  nlit  : plan.nlit = max 257 (lastUsed plan.ll.len)
  ndist : plan.ndist = max 1 (lastUsed plan.d.len)
  ncl   : plan.ncl = max 4 (lastUsed (clordLens plan.cl))
  runs  : plan.runs = rle (plan.ll.len.take plan.nlit ++ plan.d.len.take plan.ndist)

/-- Every token sequence has a plan (R265, R270). -/
theorem exists_dynPlan (P : Config.Params) (tokens : List Token) :
    ∃ plan, dynPlan P tokens = .ok plan ∧ PlanFor tokens plan := by
  obtain ⟨ll, hll, hllFor⟩ := buildFreq_guard2 P (limit := 15) (n := 286) (tokens.map Token.litSymbol ++ [256])
    (by decide) (by decide) (by decide)
  obtain ⟨d, hd, hdFor⟩ := buildFreq_guard2 P (limit := 15) (n := 30) (tokens.filterMap Token.distSymbol)
    (by decide) (by decide) (by decide)
  obtain ⟨cl, hcl, hclFor⟩ := buildFreq_guard2 P (limit := 7) (n := 19)
    ((rle (ll.len.take (max 257 (lastUsed ll.len)) ++ d.len.take (max 1 (lastUsed d.len)))).map Prod.fst)
    (by decide) (by decide) (by decide)
  rw [← litFreq_eq] at hll
  rw [← distFreq_eq] at hd
  rw [← clFreq_eq] at hcl
  have hplan : dynPlan P tokens = dynPlanOf P ll d := by simp only [dynPlan, hll, hd]
  rw [hplan, dynPlanOf, hcl]
  exact ⟨_, rfl, hllFor, hdFor, hclFor, rfl, rfl, rfl, rfl⟩

end Sys2Proof.Machine
end

section

namespace Sys2Proof.Machine

/-! ### One block (R262) -/

/-- A block as the encoder writes it. -/
structure Block where
  tokens : List Token
  raw    : List Byte
  plan   : DynPlan
  kind   : Config.BlockKind
  final  : Bool

/-- The operations of a block (R262). -/
def Block.ops (b : Block) : List WOp := blockOps b.kind b.tokens b.plan b.raw b.final

/-- The number of input bytes tokens cover (R244). -/
def covered (tokens : List Token) : Nat := (tokens.map Token.covers).sum

theorem covered_append (xs ys : List Token) : covered (xs ++ ys) = covered xs + covered ys := by simp [covered]

/-- `emit_block` of the next `m` tokens has written a block (R262). -/
structure State.WroteBlock (s : State) (m : Nat) (b : Block) (t : State) : Prop where
  tokens : b.tokens = (s.mf.tok.take m).map Token.ofWord
  raw    : b.raw = (s.mf.input.drop s.bk.blkStart).take (covered b.tokens)
  plan   : PlanFor b.tokens b.plan
  kind   : b.kind = chooseKind params s.bk.level b.plan b.tokens s.bc.total (covered b.tokens)
  state  : t = { s with
    bc := (runOps params s.bc b.ops).1, outq := s.outq ++ (runOps params s.bc b.ops).2, hc := t.hc, mf := s.mf.take m
    bk := { s.bk with
      final := b.final, kind := kindCode b.kind, blkStart := s.bk.blkStart + covered b.tokens } }

/-- Slots and staged cells are the HuffmanCoder's (R33, R35). -/
def State.HuffmanOnly (s t : State) : Prop := ∃ h, t = { s with hc := h }

theorem State.HuffmanOnly.trans {s t u : State} (h : s.HuffmanOnly t) (h' : t.HuffmanOnly u) : s.HuffmanOnly u := by
  obtain ⟨_, rfl⟩ := h
  obtain ⟨_, rfl⟩ := h'
  exact ⟨_, rfl⟩

theorem State.huffmanOnly_stage (s : State) (a : Nat) (l : List Nat) : s.HuffmanOnly (s.stage a l) := ⟨_, rfl⟩

theorem State.huffmanOnly_setTable (s : State) (t : Table) : ∀ k, s.HuffmanOnly (s.setTable k t)
  | 0 | 1 | 2 | _ + 3 => ⟨_, rfl⟩

theorem State.huffmanOnly_discard (s : State) (k : Nat) : s.HuffmanOnly (s.discard k) := s.huffmanOnly_setTable _ k

/-- The plan touches `STG` and the slots only (R265). -/
theorem State.huffmanOnly_putPlan (s : State) (tokens : List Token) (plan : DynPlan) :
    s.HuffmanOnly (s.putPlan tokens plan) :=
  ((((s.huffmanOnly_stage 0 _).trans (State.huffmanOnly_stage _ 0 _)).trans (State.huffmanOnly_stage _ 0 _)).trans
    (State.huffmanOnly_setTable _ _ 0)).trans
    ((State.huffmanOnly_setTable _ _ 1).trans (State.huffmanOnly_setTable _ _ 2))

theorem State.huffmanOnly_discardThree (s : State) : s.HuffmanOnly (((s.discard 0).discard 1).discard 2) :=
  ((s.huffmanOnly_discard 0).trans (State.huffmanOnly_discard _ 1)).trans (State.huffmanOnly_discard _ 2)

/-- The block of the next `m` tokens of a state, its plan given (R262). -/
def State.blockOf (s : State) (m : Nat) (final : Bool) (plan : DynPlan) : Block :=
  let tokens := (s.mf.tok.take m).map Token.ofWord
  { tokens := tokens, raw := (s.mf.input.drop s.bk.blkStart).take (covered tokens), plan := plan
    kind := chooseKind params s.bk.level plan tokens s.bc.total (covered tokens), final := final }

/-- `emit_block` never fails (R262, R281). -/
theorem State.emitBlock_ok (s : State) (m : Nat) (final : Bool) :
    ∃ b t, s.emitBlock params m final = .ok t ∧ b.final = final ∧ s.WroteBlock m b t := by
  obtain ⟨plan, hplan, hfor⟩ := exists_dynPlan params ((s.mf.tok.take m).map Token.ofWord)
  refine ⟨s.blockOf m final plan, ?_⟩
  rw [State.emitBlock]
  dsimp only
  rw [hplan]
  dsimp only
  generalize hu : State.putPlan _ _ plan = u
  obtain ⟨_, rfl⟩ : State.HuffmanOnly { s with bk := { s.bk with final := final } } u :=
    hu ▸ State.huffmanOnly_putPlan _ _ plan
  generalize hv : State.runEnc params _ _ = v
  obtain ⟨_, hdiscard⟩ := v.huffmanOnly_discardThree
  rw [hdiscard, ← hv]
  exact ⟨_, rfl, rfl, rfl, rfl, hfor, rfl, rfl⟩

/-! ### Blocks written in turn (R260) -/

/-- What writing blocks in turn has done to the machine. -/
structure State.Wrote (s : State) (blocks : List Block) (t : State) : Prop where
  state : t = { s with
    bc := (runOps params s.bc (blocks.flatMap Block.ops)).1
    outq := s.outq ++ (runOps params s.bc (blocks.flatMap Block.ops)).2, hc := t.hc, mf := { s.mf with tok := t.mf.tok }
    bk := { s.bk with
      final := t.bk.final, kind := t.bk.kind, blkStart := s.bk.blkStart + covered (blocks.flatMap Block.tokens) } }
  tok : s.mf.tok.map Token.ofWord = blocks.flatMap Block.tokens ++ t.mf.tok.map Token.ofWord

theorem State.Wrote.nil (s : State) : s.Wrote [] s := ⟨by simp [runOps, covered], by simp⟩

theorem State.WroteBlock.wrote {s t : State} {m : Nat} {b : Block} (h : s.WroteBlock m b t) : s.Wrote [b] t where
  state := by
    rw [h.state]
    simp [Mf.take]
  tok := by
    rw [h.state]
    simp [h.tokens, Mf.take]

theorem State.Wrote.append {s t u : State} {bs cs : List Block} (h : s.Wrote bs t) (h' : t.Wrote cs u) :
    s.Wrote (bs ++ cs) u where
  state := by
    rw [h'.state, h.state]
    simp [runOps_append, covered_append, Nat.add_assoc, List.flatMap_append]
  tok := by rw [h.tok, h'.tok, List.flatMap_append, List.append_assoc]

/-- The blocks that are not final, of 16384 tokens each, written in turn (R260, R261). -/
inductive State.Blocks : State → List Block → State → Prop
  | nil (s : State) : Blocks s [] s
  | cons {s t u : State} {b : Block} {blocks : List Block} : 16384 < s.mf.tok.length → b.final = false →
    s.WroteBlock 16384 b t → Blocks t blocks u → Blocks s (b :: blocks) u

theorem State.Blocks.wrote {s t : State} {blocks : List Block} (h : s.Blocks blocks t) : s.Wrote blocks t := by
  induction h with
  | nil s => exact .nil s
  | cons _ _ hblock _ ih => exact hblock.wrote.append ih

/-- The loop of R260 writes blocks until at most 16384 tokens are left. -/
theorem State.emitFull_ok : ∀ (fuel : Nat) (s : State), s.mf.tok.length ≤ fuel →
    ∃ blocks t, s.emitFull params fuel = .ok t ∧ s.Blocks blocks t ∧ t.mf.tok.length ≤ 16384
  | 0, s, h => ⟨[], s, rfl, .nil s, by omega⟩
  | fuel + 1, s, h => by
    have hmax : params.blockMaxTokens = 16384 := rfl
    rw [State.emitFull, hmax, Mf.ntok]
    split
    · rename_i hmore
      obtain ⟨b, t, hblock, hfinal, hwrote⟩ := s.emitBlock_ok 16384 false
      have htok : t.mf.tok.length = s.mf.tok.length - 16384 := by
        rw [hwrote.state]
        exact List.length_drop
      obtain ⟨blocks, u, hrest, hblocks, hfew⟩ := State.emitFull_ok fuel t (by omega)
      rw [hblock]
      exact ⟨b :: blocks, u, hrest, .cons hmore hfinal hwrote hblocks, hfew⟩
    · exact ⟨[], s, rfl, .nil s, by omega⟩

/-! ### The engine (R260) -/

/-- What the engine does first: the MatchFinder's run, and the blocks that are not final. -/
structure State.Tokenizes (s : State) (tokens : List Token) (blocks : List Block) (t : State) : Prop where
  run    : s.mf.Tokenized s.sw tokens ((s.mfRun params).mf, (s.mfRun params).sw)
  stop   : (s.mfRun params).mf.mayStep = false
  blocks : (s.mfRun params).Blocks blocks t
  few    : t.mf.tok.length ≤ 16384

theorem State.exists_tokenizes {s : State} (hpos : s.mf.pos ≤ s.mf.known) :
    ∃ tokens blocks t, (s.mfRun params).emitFull params (s.mfRun params).mf.ntok = .ok t ∧
      s.Tokenizes tokens blocks t := by
  obtain ⟨tokens, hrun, hstop, -⟩ := mfRun_tokenized s.mf s.sw hpos
  obtain ⟨blocks, t, hfull, hblocks, hfew⟩ := State.emitFull_ok (s.mfRun params).mf.ntok (s.mfRun params) (Nat.le_refl _)
  exact ⟨tokens, blocks, t, hfull, hrun, hstop, hblocks, hfew⟩

/-- `bk.ntok`, the last thing the engine writes (R260). -/
def State.countTokens (s : State) : State :=
  { s with bk := { s.bk with ntok := min s.mf.ntok params.blockMaxTokens } }

/-- The stream is finished: the pad bits are put, the flush is to be delivered (R160, R260). -/
def State.finishStream (s : State) : State :=
  let t := s.flushEnc params
  { t with bk := { t.bk with phase := .encFinish } }

/-- While the end is not marked the engine never fails, and no final block is written (R260, R281). -/
theorem State.encEngine_open {s : State} (hpos : s.mf.pos ≤ s.mf.known) (hopen : s.bk.last = false) :
    ∃ tokens blocks t, s.encEngine params = .ok t.countTokens ∧ s.Tokenizes tokens blocks t := by
  obtain ⟨tokens, blocks, t, hfull, htokenizes⟩ := State.exists_tokenizes hpos
  have hlast : t.bk.last = false := by
    rw [htokenizes.blocks.wrote.state]
    exact hopen
  have hfinal : t.emitFinal params = .ok t := if_neg (by simp [hlast])
  refine ⟨tokens, blocks, t, ?_, htokenizes⟩
  rw [State.encEngine]
  dsimp only
  rw [hfull]
  dsimp only
  rw [hfinal]
  rfl

/-- Once the end is marked the engine never fails either, and finishes the stream (R260, R281). -/
theorem State.encEngine_last {s : State} (hpos : s.mf.pos ≤ s.mf.known) (hlast : s.bk.last = true)
    (hend : s.mf.last = true) :
    ∃ tokens blocks t b u, s.encEngine params = .ok u.finishStream.countTokens ∧ s.Tokenizes tokens blocks t ∧
      b.final = true ∧ t.WroteBlock t.mf.ntok b u := by
  obtain ⟨tokens, blocks, t, hfull, htokenizes⟩ := State.exists_tokenizes hpos
  obtain ⟨b, u, hblock, hfinal, hwrote⟩ := t.emitBlock_ok t.mf.ntok true
  have hlast' : t.bk.last = true ∧ t.mf.pos = t.mf.known := by
    have hran := htokenizes.run.ran
    have hinside : (s.mfRun params).mf.pos ≤ (s.mfRun params).mf.known := by
      rw [Mf.known, hran.input]
      exact htokenizes.run.covering.inside
    obtain ⟨hall, -⟩ := Mf.stopped hinside htokenizes.stop
    rw [htokenizes.blocks.wrote.state]
    exact ⟨hlast, hall (.inl (hran.last.trans hend))⟩
  have hfinal' : t.emitFinal params = .ok u.finishStream := by
    rw [State.emitFinal, if_pos (by simp [hlast']), hblock]
    rfl
  refine ⟨tokens, blocks, t, b, u, ?_, htokenizes, hfinal, hwrote⟩
  rw [State.encEngine]
  dsimp only
  rw [hfull]
  dsimp only
  rw [hfinal']
  rfl

end Sys2Proof.Machine
end

section

namespace Sys2Proof.Machine

/-! ### No block is dearer than its stored form (R272, R285) -/

theorem storedCost_mono (t0 : Nat) {m n : Nat} (h : m ≤ n) : storedCost t0 m ≤ storedCost t0 n := by
  simp only [storedCost, storedPieces, storedMax]
  omega

/-- At most two bits besides the five bytes of each piece and the bytes themselves (R271). -/
theorem storedCost_le (t0 n : Nat) : storedCost t0 n ≤ 8 * n + 40 * (n / 65535) + 42 := by
  simp only [storedCost, storedPieces, storedMax]
  omega

/-- The kind chosen is stored, or not dearer than stored (R272). -/
theorem chooseKind_cost (level : Nat) (plan : DynPlan) (tokens : List Token) (t0 n : Nat) :
    match chooseKind params level plan tokens t0 n with
    | .stored => True
    | .fixedHuffman => fixedCost tokens ≤ storedCost t0 n
    | .dynamicHuffman => dynCost plan tokens ≤ storedCost t0 n := by
  have hchoice : chooseKind params level plan tokens t0 n =
      kindChoiceDefault level (fixedCost tokens) (dynCost plan tokens) (storedCost t0 n) := rfl
  rw [hchoice, kindChoiceDefault]
  split_ifs
  · trivial
  · trivial
  · show fixedCost tokens ≤ storedCost t0 n
    omega
  · show dynCost plan tokens ≤ storedCost t0 n
    omega

theorem PlanFor.ncl_le {tokens : List Token} {plan : DynPlan} (h : PlanFor tokens plan) : plan.ncl ≤ 19 := by
  rw [h.ncl]
  exact Nat.max_le.mpr ⟨by decide, clordLens_length plan.cl ▸ lastUsed_le _⟩

theorem State.WroteBlock.opsBits_le {s t : State} {m : Nat} {b : Block} (h : s.WroteBlock m b t) :
    opsBits s.bc.total b.ops ≤ storedCost s.bc.total (covered b.tokens) := by
  have hcost := chooseKind_cost s.bk.level b.plan b.tokens s.bc.total (covered b.tokens)
  rw [← h.kind] at hcost
  rw [Block.ops]
  cases hkind : b.kind with
  | stored =>
    have hraw : b.raw.length ≤ covered b.tokens := by rw [h.raw]; exact List.length_take_le _ _
    rw [blockOps, opsBits_emitStored]
    exact storedCost_mono _ hraw
  | fixedHuffman =>
    rw [hkind] at hcost
    rw [blockOps, opsBits_emitFixed]
    exact hcost
  | dynamicHuffman =>
    rw [hkind] at hcost
    rw [blockOps, opsBits_emitDynamic h.plan.ncl_le]
    exact hcost

/-! ### The counters of an encode session -/

/-- The channel of an encode session (R260). -/
abbrev Bc.Writing (c : Bc) : Prop := c.Wf ∧ c.mode = .write

theorem Bc.Writing.runOps {c : Bc} (h : c.Writing) (ops : List WOp) : (Machine.runOps params c ops).1.Writing :=
  have hwritten := Bc.written_runOps params ops c
  ⟨hwritten.wf h.1 h.2, hwritten.mode.trans h.2⟩

theorem Bc.Writing.counts {c : Bc} (h : c.Writing) (ops : List WOp) :
    (Machine.runOps params c ops).1.total = c.total + opsBits c.total ops ∧
      (Machine.runOps params c ops).2.length = (c.nbits + opsBits c.total ops) / 8 :=
  costsAreExact.1 params c ops h.1 h.2

/-- Blocks take few bits for the input bytes their tokens cover. -/
structure State.CheapTo (s : State) (blocks : List Block) (t : State) : Prop where
  writing : t.bc.Writing
  total   : t.bc.total ≤ s.bc.total + 8 * covered (blocks.flatMap Block.tokens) +
    40 * (covered (blocks.flatMap Block.tokens) / 65535) + 42 * blocks.length

theorem State.CheapTo.append {s t u : State} {bs cs : List Block} (h : s.CheapTo bs t) (h' : t.CheapTo cs u) :
    s.CheapTo (bs ++ cs) u where
  writing := h'.writing
  total := by
    have := h.total
    have := h'.total
    rw [List.flatMap_append, covered_append, List.length_append]
    omega

theorem State.WroteBlock.cheap {s t : State} {m : Nat} {b : Block} (h : s.WroteBlock m b t) (hs : s.bc.Writing) :
    s.CheapTo [b] t := by
  have hbits := h.opsBits_le
  have hcost := storedCost_le s.bc.total (covered b.tokens)
  have htotal := (hs.counts b.ops).1
  have hbc : t.bc = (runOps params s.bc b.ops).1 := by rw [h.state]
  refine ⟨hbc ▸ hs.runOps b.ops, ?_⟩
  rw [hbc, htotal]
  simp only [List.flatMap_cons, List.flatMap_nil, List.append_nil, List.length_singleton]
  omega

theorem State.Blocks.cheap {s t : State} {blocks : List Block} (h : s.Blocks blocks t) (hs : s.bc.Writing) :
    s.CheapTo blocks t := by
  induction h with
  | nil s => exact ⟨hs, Nat.le_add_right _ _⟩
  | cons _ _ hblock _ ih =>
    have hfirst := hblock.cheap hs
    exact hfirst.append (ih hfirst.writing)

/-- Each block that is not final takes 16384 tokens (R261). -/
theorem State.Blocks.length_eq {s t : State} {blocks : List Block} (h : s.Blocks blocks t) :
    s.mf.tok.length = 16384 * blocks.length + t.mf.tok.length := by
  induction h with
  | nil s => simp
  | cons hmore _ hblock _ ih =>
    have hrest := congrArg (fun u : State => u.mf.tok.length) hblock.state
    simp only [Mf.take, List.length_drop] at hrest
    rw [List.length_cons]
    omega

theorem covers_ofWord_le (w : Word) : (Token.ofWord w).covers ≤ 511 := by
  rw [Token.ofWord]
  split
  · have := (w.extractLsb' 17 9).isLt
    show (w.extractLsb' 17 9).toNat ≤ 511
    omega
  · show 1 ≤ 511
    decide

/-- A token word's length field has nine bits (R96). -/
theorem covered_ofWord_le : ∀ words : List Word, covered (words.map Token.ofWord) ≤ 511 * words.length
  | [] => Nat.le_refl 0
  | w :: words => by
    have hrest := covered_ofWord_le words
    have hfirst := covers_ofWord_le w
    simp only [covered, List.map_cons, List.sum_cons, List.length_cons] at hrest ⊢
    omega

/-- Blocks cover at most what the tokens they are made of do. -/
theorem State.Wrote.covered_le {s t : State} {blocks : List Block} (h : s.Wrote blocks t) :
    covered (blocks.flatMap Block.tokens) ≤ 511 * s.mf.tok.length := by
  have hall := covered_ofWord_le s.mf.tok
  rw [h.tok, covered_append] at hall
  omega

/-- What the engine may do to a session with at most `n` tokens: what it leaves alone, and how far it moves the
counters. -/
structure State.Encodes (s : State) (n : Nat) (t : State) : Prop where
  err      : t.err = s.err
  port     : t.port = s.port
  inTotal  : t.bk.inTotal = s.bk.inTotal
  outTotal : t.bk.outTotal = s.bk.outTotal
  writing  : t.bc.Writing
  total    : t.bc.total ≤ s.bc.total + 10000 * n + 100
  blkStart : t.bk.blkStart ≤ s.bk.blkStart + 511 * n
  cursor   : t.sw.cursor ≤ s.sw.cursor + n
  pos      : t.mf.pos ≤ t.mf.input.length
  input    : t.mf.input = s.mf.input
  tok      : t.mf.tok.length ≤ n

/-- The MatchFinder's run appends at most one token for each byte not yet covered (R244). -/
theorem Mf.Tokenized.tok_length_le {m : Mf} {w : Sw} {tokens : List Token} {r : Mf × Sw} (h : m.Tokenized w tokens r) :
    r.1.tok.length ≤ m.tok.length + (m.known - m.pos) ∧ r.2.cursor ≤ w.cursor + (m.known - m.pos) := by
  have hmore := length_le_covers _ _ h.covering.bounds
  have hreach := h.covering.reach
  have hinside : r.1.pos ≤ m.known := h.covering.inside
  rw [h.tok, h.window, pushAll_cursor, List.length_append, List.length_map, List.length_drop, List.length_take]
  omega

/-- The engine up to a point: the run and some blocks. -/
theorem State.Wrote.encodes {s t : State} {tokens : List Token} {blocks : List Block} {n : Nat}
    (h : (s.mfRun params).Wrote blocks t)
    (hrun : s.mf.Tokenized s.sw tokens ((s.mfRun params).mf, (s.mfRun params).sw))
    (hcheap : (s.mfRun params).CheapTo blocks t) (hblocks : 16384 * blocks.length ≤ n + 16384)
    (hn : s.mf.tok.length + (s.mf.known - s.mf.pos) ≤ n) :
    s.Encodes n t ∧ t.bc.total ≤ s.bc.total + 10000 * n + 50 := by
  obtain ⟨htok, hcursor⟩ := hrun.tok_length_le
  have hcovered := h.covered_le
  have htotal := hcheap.total
  have hinside : (s.mfRun params).mf.pos ≤ s.mf.input.length := hrun.covering.inside
  have hinput : (s.mfRun params).mf.input = s.mf.input := hrun.ran.input
  have hrest := congrArg List.length h.tok
  rw [List.length_map, List.length_append, List.length_map] at hrest
  have hbc : (s.mfRun params).bc = s.bc := rfl
  rw [hbc] at htotal
  dsimp only at htok hcursor
  have hbits : t.bc.total ≤ s.bc.total + 10000 * n + 50 := by omega
  refine ⟨⟨by rw [h.state]; rfl, by rw [h.state]; rfl, by rw [h.state]; rfl, by rw [h.state]; rfl, hcheap.writing,
    by omega, ?_, ?_, ?_, ?_, by omega⟩, hbits⟩
  · rw [h.state]
    show s.bk.blkStart + covered (blocks.flatMap Block.tokens) ≤ _
    omega
  · rw [h.state]
    exact Nat.le_trans hcursor (by omega)
  · rw [h.state]
    exact hinput ▸ hinside
  · rw [h.state]
    exact hinput

theorem State.Encodes.countTokens {s t : State} {n : Nat} (h : s.Encodes n t) : s.Encodes n t.countTokens :=
  ⟨h.err, h.port, h.inTotal, h.outTotal, h.writing, h.total, h.blkStart, h.cursor, h.pos, h.input, h.tok⟩

/-- The engine of an encode session never fails (R281); the end marked, it finishes the stream. -/
theorem State.encEngine_encodes {s : State} {n : Nat} (hs : s.bc.Writing) (hpos : s.mf.pos ≤ s.mf.known)
    (hend : s.bk.last = true → s.mf.last = true) (hn : s.mf.tok.length + (s.mf.known - s.mf.pos) ≤ n) :
    ∃ t, s.encEngine params = .ok t ∧ s.Encodes n t ∧
      t.bk.phase = if s.bk.last then .encFinish else s.bk.phase := by
  cases hlast : s.bk.last with
  | false =>
    obtain ⟨tokens, blocks, t, hengine, htokenizes⟩ := State.encEngine_open hpos hlast
    have hcount := htokenizes.blocks.length_eq
    have htok := htokenizes.run.tok_length_le.1
    obtain ⟨hencodes, -⟩ := htokenizes.blocks.wrote.encodes htokenizes.run (htokenizes.blocks.cheap hs)
      (by dsimp only at htok; omega) hn
    refine ⟨_, hengine, hencodes.countTokens, ?_⟩
    show t.bk.phase = s.bk.phase
    rw [htokenizes.blocks.wrote.state]
    rfl
  | true =>
    obtain ⟨tokens, blocks, t, b, u, hengine, htokenizes, -, hblock⟩ := State.encEngine_last hpos hlast (hend hlast)
    have hcount := htokenizes.blocks.length_eq
    have htok := htokenizes.run.tok_length_le.1
    have hcheap := htokenizes.blocks.cheap hs
    obtain ⟨hencodes, htotal⟩ := (htokenizes.blocks.wrote.append hblock.wrote).encodes htokenizes.run
      (hcheap.append (hblock.cheap hcheap.writing))
      (by rw [List.length_append, List.length_singleton]; dsimp only at htok; omega) hn
    have hflush := hencodes.writing.runOps [.align]
    have hpad := (hencodes.writing.counts [.align]).1
    refine ⟨_, hengine, State.Encodes.countTokens ⟨hencodes.err, hencodes.port, hencodes.inTotal, hencodes.outTotal,
      hflush, ?_, hencodes.blkStart, hencodes.cursor, hencodes.pos, hencodes.input, hencodes.tok⟩, rfl⟩
    show (runOps params u.bc [.align]).1.total ≤ _
    rw [hpad]
    simp only [opsBits, WOp.bitsAt]
    omega

/-! ### `BK_FEED` of an encode session (R281, R345, R347) -/

/-- The counters of an encode session that is not too long are within their ranges. -/
theorem State.Encodes.countersFit {s t : State} {n : Nat} (h : s.Encodes n t) (hn : n < 2 ^ 32)
    (htotal : s.bc.total < 2 ^ 62) (hstart : s.bk.blkStart < 2 ^ 62) (hcursor : s.sw.cursor < 2 ^ 62)
    (hin : s.bk.inTotal < 2 ^ 64) (hout : s.bk.outTotal < 2 ^ 64) (hinput : s.mf.input.length < 2 ^ 64) :
    t.countersFit = true := by
  obtain ⟨⟨-, -, hwrite, -⟩, hmode⟩ := h.writing
  obtain ⟨-, -, hnbytes⟩ := hwrite hmode
  obtain ⟨-, -, hin', hout', -, htotal', hstart', hcursor', hpos, hinput', htok⟩ := h
  rw [State.countersFit_iff, hin', hout']
  rw [hinput'] at hpos ⊢
  refine ⟨?_, ?_, ?_, ?_, hinput, hin, hout, ?_, ?_⟩ <;> omega

/-- What a feed has done before it answers: it has taken `consumed` bytes and delivered `out`. -/
structure State.Fed (s : State) (last : Bool) (outCap consumed : Nat) (out : List Byte) (t : State) : Prop where
  fit       : t.countersFit = true
  err       : t.err = s.err
  port      : t.port = { s.port with src := s.port.src.drop consumed, sink := s.port.sink ++ out }
  inTotal   : t.bk.inTotal = s.bk.inTotal + consumed
  outTotal  : t.bk.outTotal = s.bk.outTotal + out.length
  cap       : out.length ≤ outCap
  full      : t.outq ≠ [] → out.length = outCap
  phase     : t.bk.phase = .encRun ∨ t.bk.phase = .encFinish ∧ (last = true ∨ s.bk.phase = .encFinish)
  open_     : t.outq = [] → t.bk.phase = .encRun → last = false

theorem State.countersFit_closeFinished (s : State) : s.closeFinished.countersFit = s.countersFit := by
  simp [State.countersFit, State.closeFinished, State.forget]

/-- The status of a feed, by what is left to deliver (R347). -/
theorem State.Fed.answer {s t : State} {last : Bool} {outCap consumed : Nat} {out : List Byte}
    (h : s.Fed last outCap consumed out t) :
    ∃ u r, (t.feedEncodeEnd consumed out.length).finish = .next u ∧ u.port.responses = s.port.responses ++ [r] ∧
      r.err = 0 ∧ u.err = s.err ∧ r.r0 = BitVec.ofNat 32 consumed ∧ r.r1 = BitVec.ofNat 32 out.length ∧
      u.port.src = s.port.src.drop consumed ∧ u.port.sink = s.port.sink ++ out ∧
      u.bk.inTotal = s.bk.inTotal + consumed ∧ u.bk.outTotal = s.bk.outTotal + out.length ∧
      ((r.aux = 2 ∧ u.outq ≠ [] ∧ out.length = outCap ∧ u.bk.phase.encoding = true) ∨
        (r.aux = 3 ∧ u.outq = [] ∧ u.bk.phase = .done ∧ (last = true ∨ s.bk.phase = .encFinish) ∧
          u.port.committed = u.port.sink.length ∧ u.port.flushes = s.port.flushes + 1) ∨
        (r.aux = 1 ∧ u.outq = [] ∧ u.bk.phase = .encRun ∧ last = false)) := by
  obtain ⟨hfit, herr, hport, hin, hout, hcap, hfull, hphase, hopen⟩ := h
  have hencoding : t.bk.phase.encoding = true := by
    rcases hphase with h | ⟨h, -⟩ <;> rw [h] <;> rfl
  obtain ⟨hsrc, hsink, hflushes, hresponses⟩ : t.port.src = s.port.src.drop consumed ∧
      t.port.sink = s.port.sink ++ out ∧ t.port.flushes = s.port.flushes ∧ t.port.responses = s.port.responses := by
    rw [hport]
    exact ⟨rfl, rfl, rfl, rfl⟩
  rw [State.feedEncodeEnd]
  split
  · rename_i hleft
    exact ⟨_, _, State.finish_of_fit hfit, congrArg (· ++ [_]) hresponses, rfl, herr, rfl, rfl, hsrc, hsink, hin, hout,
      .inl ⟨rfl, hleft, hfull hleft, hencoding⟩⟩
  · rename_i hnone
    have hnone : t.outq = [] := Classical.not_not.mp hnone
    split
    · rename_i hfinish
      have hend : last = true ∨ s.bk.phase = .encFinish := by
        rcases hphase with hp | ⟨-, hend⟩
        · rw [hfinish] at hp
          cases hp
        · exact hend
      exact ⟨_, _, State.finish_of_fit ((State.countersFit_closeFinished t.sinkFlush).trans hfit),
        congrArg (· ++ [_]) hresponses, rfl, herr, rfl, rfl, hsrc, hsink, hin, hout,
        .inr (.inl ⟨rfl, hnone, rfl, hend, rfl, congrArg (· + 1) hflushes⟩)⟩
    · rename_i hrun
      rcases hphase with hp | ⟨hp, -⟩
      · exact ⟨_, _, State.finish_of_fit hfit, congrArg (· ++ [_]) hresponses, rfl, herr, rfl, rfl, hsrc, hsink, hin,
          hout, .inr (.inr ⟨rfl, hnone, hp, hopen hnone hp⟩)⟩
      · exact absurd hp hrun

/-- `drain` delivers the head of `outq` (R347). -/
theorem State.drain_some (s : State) (k : Nat) : s.drain (some k) =
    { s with
      port := { s.port with sink := s.port.sink ++ s.outq.take k }, outq := s.outq.drop k
      bk := { s.bk with outTotal := s.bk.outTotal + (s.outq.take k).length } } := by
  have htake : s.outq.take (min k s.outq.length) = s.outq.take k := by simp
  have hdrop : s.outq.drop (min k s.outq.length) = s.outq.drop k := by
    rcases Nat.le_total k s.outq.length with h | h
    · rw [Nat.min_eq_left h]
    · rw [Nat.min_eq_right h, List.drop_length, List.drop_eq_nil_of_le h]
  rw [State.drain, List.length_take]
  dsimp only
  rw [htake, hdrop]
  rfl

/-- What is left of a queue after a delivery shows that the delivery was full. -/
theorem length_take_of_drop {l : List Byte} {k : Nat} (h : l.drop k ≠ []) : (l.take k).length = k := by
  rw [ne_eq, List.drop_eq_nil_iff] at h
  rw [List.length_take]
  omega

/-- A feed that delivers earlier output only (R347). -/
theorem State.fed_of_pending {s : State} {last : Bool} {outCap : Nat}
    (hphase : s.bk.phase.encoding = true) (hfit : s.countersFit = true) (hout : s.bk.outTotal + outCap < 2 ^ 64)
    (hpending : ¬(s.outq.drop outCap = [] ∧ s.bk.phase = .encRun)) :
    s.Fed last outCap 0 (s.outq.take outCap) (s.drain (some outCap)) := by
  have hlength : (s.outq.take outCap).length ≤ outCap := List.length_take_le _ _
  rw [State.drain_some]
  refine ⟨?_, rfl, rfl, rfl, rfl, hlength, length_take_of_drop, ?_, fun h h' => absurd ⟨h, h'⟩ hpending⟩
  · rw [State.countersFit_iff] at hfit ⊢
    obtain ⟨htotal, hnbytes, hcursor, hpos, hinput, hin, -, hrest⟩ := hfit
    exact ⟨htotal, hnbytes, hcursor, hpos, hinput, hin, Nat.lt_of_le_of_lt (Nat.add_le_add_left hlength _) hout, hrest⟩
  · show s.bk.phase = .encRun ∨ s.bk.phase = .encFinish ∧ _
    cases hp : s.bk.phase <;> simp [hp, Phase.encoding] at hphase ⊢

/-- A feed that runs the engine on what the source holds (R347). -/
theorem State.fed_of_engine {s : State} {last : Bool} {outCap : Nat} (hs : s.Inv) (hphase : s.bk.phase = .encRun)
    (hdrained : s.outq.length ≤ outCap) (hcap : outCap < 2 ^ 32)
    (htotal : s.bc.total < 2 ^ 62) (hstart : s.bk.blkStart < 2 ^ 62) (hcursor : s.sw.cursor < 2 ^ 62)
    (hin : s.bk.inTotal < 2 ^ 62) (hout : s.bk.outTotal < 2 ^ 62) (hinput : s.mf.input.length < 2 ^ 62)
    (hsrc : s.port.src.length < 2 ^ 32)
    (hn : s.mf.tok.length + (s.mf.input.length + s.port.src.length - s.mf.pos) < 2 ^ 32) :
    ∃ t, ((s.drain (some outCap)).absorbed last).encEngine params = .ok t ∧
      ∃ out, s.Fed last outCap s.port.src.length out (t.drain (some (outCap - s.outq.length))) := by
  obtain ⟨-, hmode, -, -, hopened, -⟩ := hs.encodes (by rw [hphase]; rfl)
  obtain ⟨-, hpos, -⟩ := hs.finder hopened
  obtain ⟨hlast, -⟩ := hs.running hphase
  have hall : s.outq.take outCap = s.outq := List.take_of_length_le hdrained
  have hstart' : ((s.drain (some outCap)).absorbed last).mf =
      { s.mf with input := s.mf.input ++ s.port.src, last := s.mf.last || last } := rfl
  have hbk : ((s.drain (some outCap)).absorbed last).bk = { s.bk with
      outTotal := s.bk.outTotal + s.outq.length, inTotal := s.bk.inTotal + s.port.src.length
      last := s.bk.last || last } := by
    rw [State.drain_some, hall]
    rfl
  have hport : ((s.drain (some outCap)).absorbed last).port =
      { s.port with src := [], sink := s.port.sink ++ s.outq } := by
    rw [State.drain_some, hall]
    rfl
  have hbc : ((s.drain (some outCap)).absorbed last).bc = s.bc := rfl
  have hsw : ((s.drain (some outCap)).absorbed last).sw = s.sw := rfl
  have herr : ((s.drain (some outCap)).absorbed last).err = s.err := rfl
  generalize (s.drain (some outCap)).absorbed last = u at *
  have hknown : u.mf.known = s.mf.input.length + s.port.src.length := by
    rw [Mf.known, hstart', List.length_append]
  obtain ⟨t, hengine, hencodes, htphase⟩ := State.encEngine_encodes (s := u)
    (n := s.mf.tok.length + (s.mf.input.length + s.port.src.length - s.mf.pos))
    (by rw [hbc]; exact ⟨hs.channel, hmode⟩)
    (by rw [hknown, hstart']; exact Nat.le_trans hpos (Nat.le_add_right _ _))
    (by rw [hbk, hstart', hlast]; intro h; simpa using Or.inr h)
    (by rw [hknown, hstart'])
  have hmore : (t.outq.take (outCap - s.outq.length)).length ≤ outCap - s.outq.length := List.length_take_le _ _
  have hfit := hencodes.countersFit hn (by rwa [hbc]) (by rwa [hbk]) (by rwa [hsw]) (by rw [hbk]; dsimp only; omega)
    (by rw [hbk]; dsimp only; omega) (by rw [hstart', List.length_append]; omega)
  refine ⟨t, hengine, s.outq ++ t.outq.take (outCap - s.outq.length), ?_⟩
  have hin' := hencodes.inTotal
  have hout' := hencodes.outTotal
  rw [hbk] at hin' hout' htphase
  rw [State.drain_some]
  refine ⟨?_, hencodes.err.trans herr, ?_, hin', ?_, ?_, fun hleft => ?_, ?_, fun _ hrun => ?_⟩
  · rw [State.countersFit_iff] at hfit ⊢
    obtain ⟨htotal', hnbytes', hcursor', hpos', hinput', hinTotal', -, hrest⟩ := hfit
    refine ⟨htotal', hnbytes', hcursor', hpos', hinput', hinTotal', ?_, hrest⟩
    dsimp only at hout' ⊢
    omega
  · simp only [hencodes.port, hport, List.drop_length, List.append_assoc]
  · simp only [hout', List.length_append, Nat.add_assoc]
  · rw [List.length_append]
    omega
  · rw [List.length_append, length_take_of_drop hleft]
    omega
  · show t.bk.phase = .encRun ∨ t.bk.phase = .encFinish ∧ _
    rw [htphase]
    cases hl : last <;> simp [hlast, hphase]
  · have hrun : t.bk.phase = .encRun := hrun
    rw [htphase] at hrun
    cases hl : last
    · rfl
    · simp [hl] at hrun

/-- The output a feed counts is what it delivered. -/
theorem State.Fed.produced {s t : State} {last : Bool} {outCap consumed : Nat} {out : List Byte}
    (h : s.Fed last outCap consumed out t) : t.bk.outTotal - s.bk.outTotal = out.length := by
  rw [h.outTotal, Nat.add_sub_cancel_left]

/-- Settles O51: the engine never fails (`State.encEngine_encodes`), and the status is by what is left
(`State.Fed.answer`). -/
theorem bkFeedEncodeContract : Obligations.BkFeedEncodeContract := by
  intro last outCap s hs hphase hfit htotal hstart hcursor hin hout _ hinput hsrc hn
  have hcap := outCap.isLt
  have hopen : s.sessionOpen = true := by
    rw [State.sessionOpen]
    cases hp : s.bk.phase <;> simp [hp, Phase.encoding] at hphase ⊢ <;> rfl
  have hexec : exec (.bkFeed last outCap) s = s.feedEncode params last outCap.toNat := by
    show execBkFeed last outCap s = _
    rw [execBkFeed, if_pos hopen, (hs.encodes hphase).1]
  obtain ⟨consumed, out, t, hfeed, hconsumed, hfed⟩ : ∃ consumed out t,
      s.feedEncode params last outCap.toNat = (t.feedEncodeEnd consumed out.length).finish ∧
      (consumed = if s.outq.length ≤ outCap.toNat ∧ s.bk.phase = .encRun then s.port.src.length else 0) ∧
      s.Fed last outCap.toNat consumed out t := by
    have houtq : (s.drain (some outCap.toNat)).outq = [] ↔ s.outq.length ≤ outCap.toNat := by
      rw [State.drain_some]
      exact List.drop_eq_nil_iff
    have hphase' : (s.drain (some outCap.toNat)).bk.phase = s.bk.phase := rfl
    rw [State.feedEncode]
    dsimp only
    by_cases hengine : s.outq.length ≤ outCap.toNat ∧ s.bk.phase = .encRun
    · obtain ⟨hlength, hrun⟩ := hengine
      obtain ⟨t, hencoded, out, hfed⟩ := State.fed_of_engine (last := last) hs hrun hlength hcap htotal hstart hcursor
        hin hout hinput hsrc hn
      have hdrained : (s.drain (some outCap.toNat)).bk.outTotal - s.bk.outTotal = s.outq.length := by
        rw [State.drain_some, List.take_of_length_le hlength, Nat.add_sub_cancel_left]
      rw [State.absorbed] at hencoded
      rw [if_pos ⟨houtq.mpr hlength, hphase'.trans hrun⟩, if_pos ⟨hlength, hrun⟩, hencoded, hdrained]
      dsimp only
      rw [hfed.produced]
      exact ⟨_, out, _, rfl, rfl, hfed⟩
    · have hpending : ¬(s.outq.drop outCap.toNat = [] ∧ s.bk.phase = .encRun) := by
        rwa [List.drop_eq_nil_iff]
      have hfed := State.fed_of_pending (last := last) hphase hfit (outCap := outCap.toNat) (by omega) hpending
      rw [if_neg hengine, if_neg (fun h => hengine ⟨houtq.mp h.1, h.2⟩), hfed.produced]
      exact ⟨0, _, _, rfl, rfl, hfed⟩
  obtain ⟨u, r, hfinish, hresponses, herr, hregs, hr0, hr1, hrest⟩ := hfed.answer
  obtain ⟨hsrc', hsink, hinTotal, houtTotal, hstatus⟩ := hrest
  exact ⟨u, r, consumed, out, hexec.trans (hfeed.trans hfinish), hresponses, herr, hregs, hr0, hr1, hconsumed, hsrc',
    hsink, hfed.cap, hinTotal, houtTotal, hstatus⟩

end Sys2Proof.Machine
end

section

namespace Sys2Proof.Machine

/-! ### A covering cut in two (R244) -/

theorem length_replayToken (out : List Byte) (t : Token) : (replayToken out t).length = out.length + t.covers := by
  cases t <;> simp [replayToken, Token.covers]

/-- Tokens only add bytes, as many as they cover. -/
theorem replay_adds (tokens : List Token) : ∀ out : List Byte,
    ∃ added, replay out tokens = out ++ added ∧ added.length = covered tokens := by
  induction tokens with
  | nil => exact fun out => ⟨[], by simp [replay], rfl⟩
  | cons t rest ih =>
    intro out
    obtain ⟨first, hfirst⟩ : ∃ first, replayToken out t = out ++ first := by cases t <;> exact ⟨_, rfl⟩
    have hlength := length_replayToken out t
    obtain ⟨added, hadded, hcount⟩ := ih (replayToken out t)
    rw [hfirst, List.length_append] at hlength
    refine ⟨first ++ added, ?_, ?_⟩
    · rw [← List.append_assoc, ← hfirst, ← hadded]
      rfl
    · rw [List.length_append, hcount, show first.length = t.covers by omega]
      rfl

theorem Covering.split {input : List Byte} {p q : Nat} {tokens more : List Token}
    (h : Covering input p (tokens ++ more) q) :
    Covering input p tokens (p + covered tokens) ∧ Covering input (p + covered tokens) more q := by
  obtain ⟨hbounds, hreach, hinside, hbytes⟩ := h
  rw [tokensInBounds_append, Bool.and_eq_true] at hbounds
  rw [List.map_append, List.sum_append, ← Nat.add_assoc] at hreach
  have hstart : (input.take p).length = p := List.length_take_of_le (by omega)
  obtain ⟨added, hadded, hcount⟩ := replay_adds tokens (input.take p)
  obtain ⟨later, hlater, -⟩ := replay_adds more (replay (input.take p) tokens)
  have hfirst : replay (input.take p) tokens = input.take (p + covered tokens) := by
    have hprefix : (input.take q).take (p + covered tokens) = replay (input.take p) tokens := by
      rw [← hbytes, replay_append, hlater]
      exact List.take_left' (by rw [hadded, List.length_append, hstart, hcount])
    rw [← hprefix, List.take_take, Nat.min_eq_left (by rw [hreach]; exact Nat.le_add_right _ _)]
  refine ⟨⟨hbounds.1, rfl, ?_, hfirst⟩, ⟨hbounds.2, hreach, hinside, ?_⟩⟩
  · exact Nat.le_trans (by rw [hreach]; exact Nat.le_add_right _ _) hinside
  · rw [← hfirst, ← replay_append, hbytes]

theorem Covering.covered_le {input : List Byte} {p q : Nat} {tokens : List Token} (h : Covering input p tokens q) :
    q = p + covered tokens ∧ tokens.length ≤ covered tokens := ⟨h.reach, length_le_covers _ _ h.bounds⟩

/-- The words of tokens in bounds stand for them (R96). -/
theorem map_ofWord_word : ∀ (tokens : List Token) (p : Nat), tokensInBounds p tokens = true →
    (tokens.map Token.word).map Token.ofWord = tokens
  | [], _, _ => rfl
  | t :: rest, p, h => by
    rw [tokensInBounds, Bool.and_eq_true] at h
    rw [List.map_cons, List.map_cons, ofWord_word h.1, map_ofWord_word rest _ h.2]

/-! ### The blocks of a whole input (R260, R261) -/

/-- A block of the input bytes from `p` on, its kind chosen where the channel is (R262). -/
structure Block.Of (level : Nat) (input : List Byte) (c : Bc) (p : Nat) (b : Block) : Prop where
  covering : Covering input p b.tokens (p + covered b.tokens)
  raw      : b.raw = (input.drop p).take (covered b.tokens)
  plan     : PlanFor b.tokens b.plan
  kind     : b.kind = chooseKind params level b.plan b.tokens c.total (covered b.tokens)
  few      : b.tokens.length ≤ 16384

/-- The blocks that finish an input from `p` on: all but the last have 16384 tokens, and the last is marked final. -/
inductive Stream (level : Nat) (input : List Byte) : Bc → Nat → List Block → Prop
  | last {c : Bc} {p : Nat} {b : Block} : b.final = true → b.Of level input c p → p + covered b.tokens = input.length →
    Stream level input c p [b]
  | more {c : Bc} {p : Nat} {b : Block} {blocks : List Block} : b.final = false → b.Of level input c p →
    b.tokens.length = 16384 → p + covered b.tokens < input.length →
    Stream level input (runOps params c b.ops).1 (p + covered b.tokens) blocks → Stream level input c p (b :: blocks)

/-- The blocks of a stream are made of the tokens that cover the input. -/
theorem Stream.covering {level : Nat} {input : List Byte} {c : Bc} {p : Nat} {blocks : List Block}
    (h : Stream level input c p blocks) : Covering input p (blocks.flatMap Block.tokens) input.length := by
  induction h with
  | last hfinal hof hend =>
    rw [List.flatMap_cons, List.flatMap_nil, List.append_nil, ← hend]
    exact hof.covering
  | more _ hof _ _ _ ih =>
    rw [List.flatMap_cons]
    exact hof.covering.append ih

/-- Only the last block may have few tokens (R261). -/
theorem Stream.length_le {level : Nat} {input : List Byte} {c : Bc} {p : Nat} {blocks : List Block}
    (h : Stream level input c p blocks) : blocks.length ≤ blocksFor (input.length - p) := by
  induction h with
  | last =>
    rw [blocksFor]
    exact Nat.le_max_left _ _
  | @more c p b blocks _ hof hfull hmore _ ih =>
    have hcovered := hof.covering.covered_le.2
    rw [blocksFor] at ih ⊢
    rw [List.length_cons]
    omega

/-- What a block leaves for the next one. -/
theorem State.WroteBlock.of {s t : State} {m q : Nat} {b : Block} (h : s.WroteBlock m b t)
    (hcovering : Covering s.mf.input s.bk.blkStart (s.mf.tok.map Token.ofWord) q) (hm : min m s.mf.tok.length ≤ 16384) :
    b.Of s.bk.level s.mf.input s.bc s.bk.blkStart ∧
      Covering s.mf.input (s.bk.blkStart + covered b.tokens) (t.mf.tok.map Token.ofWord) q := by
  have htok : t.mf.tok = s.mf.tok.drop m := by rw [h.state]; rfl
  have hparts : s.mf.tok.map Token.ofWord = b.tokens ++ t.mf.tok.map Token.ofWord := by
    rw [h.tokens, htok, ← List.map_append, List.take_append_drop]
  rw [hparts] at hcovering
  obtain ⟨hfirst, hrest⟩ := hcovering.split
  refine ⟨⟨hfirst, h.raw, h.plan, h.kind, ?_⟩, hrest⟩
  rwa [h.tokens, List.length_map, List.length_take]

/-- The engine's blocks are the stream of the input (R260). -/
theorem State.Blocks.stream {s t u : State} {blocks : List Block} {b : Block} (h : s.Blocks blocks t)
    (hcovering : Covering s.mf.input s.bk.blkStart (s.mf.tok.map Token.ofWord) s.mf.input.length)
    (hfew : t.mf.tok.length ≤ 16384) (hfinal : b.final = true) (hlast : t.WroteBlock t.mf.ntok b u) :
    Stream s.bk.level s.mf.input s.bc s.bk.blkStart (blocks ++ [b]) := by
  induction h with
  | nil t =>
    obtain ⟨hof, hrest⟩ := hlast.of hcovering (by omega)
    have hnone : u.mf.tok = [] := by
      rw [hlast.state]
      exact List.drop_length
    rw [hnone] at hrest
    exact .last hfinal hof hrest.reach.symm
  | @cons s v t first blocks hmore hopen hblock _ ih =>
    obtain ⟨hof, hrest⟩ := hblock.of hcovering (Nat.min_le_left _ _)
    have htok : v.mf.tok = s.mf.tok.drop 16384 := by rw [hblock.state]; rfl
    have hfull : first.tokens.length = 16384 := by
      rw [hblock.tokens, List.length_map, List.length_take]
      omega
    have hreach := hrest.covered_le
    rw [htok, List.length_map, List.length_drop] at hreach
    have hstate := hblock.state
    have hbc : v.bc = (runOps params s.bc first.ops).1 := by rw [hstate]
    have hinput : v.mf.input = s.mf.input := by rw [hstate]; rfl
    have hlevel : v.bk.level = s.bk.level := by rw [hstate]
    have hstart : v.bk.blkStart = s.bk.blkStart + covered first.tokens := by rw [hstate]
    rw [hinput, hlevel, hstart, hbc] at ih
    exact .more hopen hof hfull (by omega) (ih hrest hfew hlast)

/-! ### At level 0 every token is a literal (R237) -/

/-- The word stands for a literal (R96). -/
def IsLiteral (w : Word) : Prop := (Token.ofWord w).covers = 1

theorem mfRun_literals (m : Mf) (w : Sw) : m.level = 0 → (∀ x ∈ m.tok, IsLiteral x) →
    ∀ x ∈ (mfRun params m w).1.tok, IsLiteral x := by
  induction m, w using mfRun_induction with
  | stop m w hstop => exact fun _ h => h
  | step m w r hmay ih =>
    intro hlevel h
    have hstep := mfStep_tokenized w (Mf.pos_lt_of_mayStep hmay)
    rw [Mf.choose_of_level_zero _ hlevel] at hstep
    refine ih (hstep.ran.level.trans hlevel) fun x hx => ?_
    rw [hstep.tok, List.mem_append] at hx
    rcases hx with hx | hx
    · exact h x hx
    · obtain rfl := List.mem_singleton.mp hx
      exact congrArg Token.covers (ofWord_litWord _)

/-- Tokens that cover a byte each cover as many bytes as there are. -/
theorem covered_of_literals : ∀ {tokens : List Token}, (∀ t ∈ tokens, t.covers = 1) → covered tokens = tokens.length
  | [], _ => rfl
  | t :: rest, h => by
    have hrest := covered_of_literals fun x hx => h x (List.mem_cons_of_mem _ hx)
    rw [covered] at hrest
    rw [covered, List.map_cons, List.sum_cons, h t List.mem_cons_self, hrest, List.length_cons, Nat.add_comm]

/-! ### `BK_COMPRESS` (R349) -/

/-- The bytes of a stream of blocks, padded (R160). -/
def packed (blocks : List Block) : List Byte :=
  (runOps params (Bc.init .write .lsbFirst) (blocks.flatMap Block.ops ++ [.align])).2

/-- The blocks `BK_COMPRESS` writes. -/
structure Compressed (level : Nat) (input : List Byte) (blocks : List Block) : Prop where
  stream   : Stream level input (Bc.init .write .lsbFirst) 0 blocks
  literals : level = 0 → ∀ t ∈ blocks.flatMap Block.tokens, t.covers = 1
  cheap    : opsBits 0 (blocks.flatMap Block.ops) ≤ 8 * input.length + 40 * (input.length / 65535) + 42 * blocks.length

/-- The state from which the engine starts: the whole source absorbed (R349). -/
structure State.Absorbed (s : State) (level : Nat) (t : State) : Prop where
  input    : t.mf.input = s.port.src
  tok      : t.mf.tok = []
  pos      : t.mf.pos = 0
  closed   : t.mf.last = true
  mfLevel  : t.mf.level = level
  last     : t.bk.last = true
  level    : t.bk.level = level
  blkStart : t.bk.blkStart = 0
  inTotal  : t.bk.inTotal = s.port.src.length
  outTotal : t.bk.outTotal = 0
  bc       : t.bc = Bc.init .write .lsbFirst
  outq     : t.outq = []
  port     : t.port = { s.port with src := [] }
  cursor   : t.sw.cursor = 0
  err      : t.err = { kind := 0, unit := 0, info := 0 }

theorem State.startSession_absorbed (s : State) (level : Nat) :
    s.Absorbed level ((s.startSession params .encode level).absorbed true) := by
  have hport := s.startSession_port params .encode level
  have hsrc := congrArg Port.src hport
  refine ⟨?_, rfl, rfl, rfl, rfl, rfl, rfl, rfl, ?_, rfl, rfl, rfl, ?_, rfl, rfl⟩
  · show [] ++ (s.startSession params .encode level).port.src = _
    rw [hsrc, List.nil_append]
  · show 0 + (s.startSession params .encode level).port.src.length = _
    rw [hsrc, Nat.zero_add]
  · show { (s.startSession params .encode level).port with src := [] } = _
    rw [hport]

/-- The engine on a whole input writes the stream of its blocks and finishes it (R260). -/
theorem State.Absorbed.engine {s a : State} {level : Nat} (h : s.Absorbed level a) :
    ∃ blocks u, a.encEngine params = .ok u.finishStream.countTokens ∧ Compressed level s.port.src blocks ∧
      (a.mfRun params).Wrote blocks u ∧ a.Encodes s.port.src.length u.finishStream.countTokens := by
  have hknown : a.mf.known = s.port.src.length := by rw [Mf.known, h.input]
  have hpos : a.mf.pos ≤ a.mf.known := by rw [h.pos]; exact Nat.zero_le _
  have hwriting : a.bc.Writing := by
    rw [h.bc]
    exact ⟨Bc.wf_init _ _, rfl⟩
  obtain ⟨tokens, blocks, t, b, u, hengine, htokenizes, hfinal, hlast⟩ := State.encEngine_last hpos h.last h.closed
  obtain ⟨_, hengine', hencodes, -⟩ := State.encEngine_encodes (n := s.port.src.length) hwriting hpos
    (fun _ => h.closed) (by rw [hknown, h.tok, h.pos]; simp)
  obtain rfl := Except.ok.inj (hengine.symm.trans hengine')
  have hran := htokenizes.run.ran
  have hinput : (a.mfRun params).mf.input = s.port.src := hran.input.trans h.input
  have hlevel : (a.mfRun params).bk.level = level := h.level
  have hstart : (a.mfRun params).bk.blkStart = 0 := h.blkStart
  have hbc : (a.mfRun params).bc = Bc.init .write .lsbFirst := h.bc
  have hcover := htokenizes.run.covering
  have htok : (a.mfRun params).mf.tok.map Token.ofWord = tokens := by
    have hwords : (a.mfRun params).mf.tok = a.mf.tok ++ tokens.map Token.word := htokenizes.run.tok
    rw [hwords, h.tok, List.nil_append]
    exact map_ofWord_word tokens _ hcover.bounds
  have hend : (a.mfRun params).mf.pos = s.port.src.length := by
    rw [← hinput]
    exact (Mf.stopped (by rw [Mf.known, hinput, ← h.input]; exact hcover.inside) htokenizes.stop).1
      (.inl (hran.last.trans h.closed))
  rw [h.input, h.pos, hend] at hcover
  have hstream := htokenizes.blocks.stream (by rw [hinput, hstart, htok]; exact hcover) htokenizes.few hfinal hlast
  rw [hinput, hlevel, hstart, hbc] at hstream
  have hwrote := htokenizes.blocks.wrote.append hlast.wrote
  have hblocks : tokens = (blocks ++ [b]).flatMap Block.tokens := by
    have hnone : u.mf.tok = [] := by
      rw [hlast.state]
      exact List.drop_length
    rw [← htok, hwrote.tok, hnone, List.map_nil, List.append_nil]
  have hcheap := htokenizes.blocks.cheap (s := a.mfRun params) hwriting
  have htotal := (hcheap.append (hlast.cheap hcheap.writing)).total
  have hcounts := (hwriting.counts ((blocks ++ [b]).flatMap Block.ops)).1
  rw [hwrote.state, ← hblocks, ← hcover.covered_le.1.trans (Nat.zero_add _)] at htotal
  refine ⟨blocks ++ [b], u, hengine, ⟨hstream, fun hzero => ?_, ?_⟩, hwrote, hencodes⟩
  · rw [← hblocks, ← htok]
    intro x hx
    obtain ⟨w, hw, rfl⟩ := List.mem_map.mp hx
    exact mfRun_literals a.mf a.sw (h.mfLevel.trans hzero) (by rw [h.tok]; simp) w hw
  · rw [h.bc] at hcounts
    rw [hbc, hcounts] at htotal
    have hzero : (Bc.init .write .lsbFirst).total = 0 := rfl
    rw [hzero] at htotal
    omega

/-- What `BK_COMPRESS` of a session does (R349). -/
structure State.CompressedTo (s : State) (blocks : List Block) (t : State) : Prop where
  responses : t.port.responses = s.port.responses ++
    [okResponse (BitVec.ofNat 32 s.port.src.length) (BitVec.ofNat 32 (packed blocks).length)]
  src       : t.port.src = []
  sink      : t.port.sink = s.port.sink ++ packed blocks
  committed : t.port.committed = t.port.sink.length
  flushes   : t.port.flushes = s.port.flushes + 1
  phase     : t.bk.phase = .done
  outq      : t.outq = []
  inTotal   : t.bk.inTotal = s.port.src.length
  outTotal  : t.bk.outTotal = (packed blocks).length
  total     : t.bc.total = 8 * (packed blocks).length
  err       : t.err = { kind := 0, unit := 0, info := 0 }

/-- The stream ends at a byte boundary (R160). -/
theorem packed_length (blocks : List Block) :
    (runOps params (Bc.init .write .lsbFirst) (blocks.flatMap Block.ops ++ [.align])).1.total =
        8 * (packed blocks).length ∧
      opsBits 0 (blocks.flatMap Block.ops) ≤ 8 * (packed blocks).length ∧
      8 * (packed blocks).length < opsBits 0 (blocks.flatMap Block.ops) + 8 := by
  obtain ⟨htotal, hlength⟩ := Bc.Writing.counts (c := Bc.init .write .lsbFirst) ⟨Bc.wf_init _ _, rfl⟩
    (blocks.flatMap Block.ops ++ [.align])
  have hbits : opsBits 0 (blocks.flatMap Block.ops ++ [.align]) =
      opsBits 0 (blocks.flatMap Block.ops) + (8 - opsBits 0 (blocks.flatMap Block.ops) % 8) % 8 := by
    rw [opsBits_append, Nat.zero_add]
    rfl
  have htotal0 : (Bc.init .write .lsbFirst).total = 0 := rfl
  have hnbits0 : (Bc.init .write .lsbFirst).nbits = 0 := rfl
  rw [htotal0, hbits, Nat.zero_add] at htotal
  rw [hnbits0, htotal0, hbits, Nat.zero_add] at hlength
  rw [htotal, packed, hlength]
  omega

/-- The engine's output is the stream of its blocks (R160, R260). -/
theorem State.Absorbed.packed {s a u : State} {level : Nat} {blocks : List Block} (h : s.Absorbed level a)
    (hwrote : (a.mfRun params).Wrote blocks u) :
    u.finishStream.countTokens.outq = packed blocks ∧
      u.finishStream.countTokens.bc.total = 8 * (packed blocks).length := by
  have hbc : u.bc = (runOps params (Bc.init .write .lsbFirst) (blocks.flatMap Block.ops)).1 := by
    rw [← h.bc, hwrote.state]
    rfl
  have houtq : u.outq = (runOps params (Bc.init .write .lsbFirst) (blocks.flatMap Block.ops)).2 := by
    rw [← h.bc, ← List.nil_append (runOps _ _ _).2, ← h.outq, hwrote.state]
    rfl
  refine ⟨?_, ?_⟩
  · rw [Machine.packed, runOps_append, ← hbc, ← houtq]
    rfl
  · rw [← (packed_length blocks).1, runOps_append, ← hbc]
    rfl

/-- The stored form bounds the bytes of a stream (R285). -/
theorem Compressed.length_le {level : Nat} {input : List Byte} {blocks : List Block}
    (h : Compressed level input blocks) :
    (packed blocks).length ≤ input.length + 5 * (blocksFor input.length + input.length / 65535) +
      (blocksFor input.length + 3) / 4 := by
  obtain ⟨-, -, hbits⟩ := packed_length blocks
  have hcheap := h.cheap
  have hblocks := h.stream.length_le
  rw [Nat.sub_zero] at hblocks
  generalize blocksFor input.length = most at *
  omega

/-- What `Finished` leaves of the state (R341). -/
theorem State.closeFinished_keeps (s : State) : s.closeFinished.port = s.port ∧ s.closeFinished.bc = s.bc ∧
    s.closeFinished.outq = s.outq ∧ s.closeFinished.err = s.err ∧ s.closeFinished.bk = { s.bk with phase := .done } :=
  ⟨rfl, rfl, rfl, rfl, rfl⟩

/-- Delivering all the output and answering (R349). -/
theorem State.CompressedTo.of_engine {s v : State} {blocks : List Block}
    (hfit : v.countersFit = true) (houtq : v.outq = packed blocks) (htotal : v.bc.total = 8 * (packed blocks).length)
    (hbytes : (packed blocks).length < 2 ^ 64) (hport : v.port = { s.port with src := [] })
    (hin : v.bk.inTotal = s.port.src.length) (hout : v.bk.outTotal = 0) (herr : v.err = { kind := 0, unit := 0, info := 0 }) :
    ∃ t, (((v.drain none).sinkFlush.closeFinished).ok ((v.drain none).sinkFlush.closeFinished).bk.inTotal
        ((v.drain none).sinkFlush.closeFinished).bk.outTotal).finish = .next t ∧ s.CompressedTo blocks t := by
  have hdrain : v.drain none = { v with
      port := { v.port with sink := v.port.sink ++ packed blocks }, outq := []
      bk := { v.bk with outTotal := v.bk.outTotal + (packed blocks).length } } := by
    rw [State.drain, ← houtq]
    dsimp only
    rw [List.take_length, List.drop_length]
    rfl
  have hdrained : (v.drain none).countersFit = true := by
    rw [hdrain]
    rw [State.countersFit_iff] at hfit ⊢
    obtain ⟨htotal, hnbytes, hcursor, hpos, hinput, hinTotal, -, hrest⟩ := hfit
    refine ⟨htotal, hnbytes, hcursor, hpos, hinput, hinTotal, ?_, hrest⟩
    dsimp only
    omega
  have hfit' := (State.countersFit_closeFinished (v.drain none).sinkFlush).trans hdrained
  obtain ⟨hp, hb, hq, he, hk⟩ := (v.drain none).sinkFlush.closeFinished_keeps
  generalize (v.drain none).sinkFlush.closeFinished = w at *
  rw [State.sinkFlush, hdrain] at hp hb hq he hk
  have hport' : w.port = { s.port with
      src := [], sink := s.port.sink ++ packed blocks, committed := (s.port.sink ++ packed blocks).length
      flushes := s.port.flushes + 1 } := by
    rw [hp, hport]
  have hinTotal : w.bk.inTotal = s.port.src.length := by rw [hk]; exact hin
  have houtTotal : w.bk.outTotal = (packed blocks).length := by
    rw [hk]
    dsimp only
    rw [hout, Nat.zero_add]
  have hresponses : w.port.responses = s.port.responses := by rw [hport']
  have hcommitted : w.port.committed = w.port.sink.length := by rw [hport']
  refine ⟨w.ok w.bk.inTotal w.bk.outTotal, State.finish_of_fit hfit', ?_⟩
  rw [hinTotal, houtTotal]
  exact {
    responses := congrArg (· ++ [_]) hresponses, src := congrArg Port.src hport'
    sink := congrArg Port.sink hport'
    committed := hcommitted, flushes := congrArg Port.flushes hport', phase := congrArg Bk.phase hk, outq := hq, inTotal := hinTotal
    outTotal := houtTotal, total := (congrArg Bc.total hb).trans htotal, err := he.trans herr }

theorem exec_bkCompress {level : BitVec 4} {s : State} (hlevel : level.toNat ≤ 9) (hn : s.port.src.length < 2 ^ 32) :
    ∃ blocks t, exec (.bkCompress level) s = .next t ∧ Compressed level.toNat s.port.src blocks ∧
      s.CompressedTo blocks t := by
  have hstart := s.startSession_absorbed level.toNat
  obtain ⟨blocks, u, hengine, hcompressed, hwrote, hencodes⟩ := hstart.engine
  have hbound := hcompressed.length_le
  have hblocks : blocksFor s.port.src.length ≤ 2 ^ 32 := by
    rw [blocksFor]
    omega
  obtain ⟨houtq, htotal⟩ := hstart.packed hwrote
  have hfit : u.finishStream.countTokens.countersFit = true := by
    refine hencodes.countersFit hn ?_ ?_ ?_ ?_ ?_ ?_
    all_goals simp only [hstart.bc, hstart.blkStart, hstart.cursor, hstart.inTotal, hstart.outTotal, hstart.input,
      Bc.init]
    all_goals omega
  obtain ⟨t, hfinish, hcompresses⟩ := State.CompressedTo.of_engine hfit houtq htotal
    (by generalize blocksFor s.port.src.length = most at *; omega) (hencodes.port.trans hstart.port)
    (hencodes.inTotal.trans hstart.inTotal) (hencodes.outTotal.trans hstart.outTotal) (hencodes.err.trans hstart.err)
  refine ⟨blocks, t, ?_, hcompressed, hcompresses⟩
  show execBkCompress level s = .next t
  rw [State.absorbed] at hengine
  rw [execBkCompress, if_neg (by omega)]
  dsimp only
  rw [hengine]
  exact hfinish

/-- Settles O52: the engine never fails, and no block is dearer than its stored form. -/
theorem bkCompressCompletes : Obligations.BkCompressCompletes := by
  intro level s hlevel hn
  obtain ⟨blocks, t, hexec, hcompressed, h⟩ := exec_bkCompress hlevel hn
  exact ⟨t, packed blocks, hexec, h.responses, h.src, h.sink, h.committed, h.flushes, h.phase, h.outq, h.inTotal,
    h.outTotal, h.total, h.err, hcompressed.length_le⟩

end Sys2Proof.Machine
end

section

namespace Sys2Proof.Machine

/-! ### The number operations write (R65, R145, R156) -/

/-- The bits of an operation as a number; pad bits are zero. -/
def WOp.value : WOp → Nat
  | .bits v n => v.toNat % 2 ^ n
  | .align => 0

/-- The number whose bits operations write, lowest first, when `t0` bits are before them. -/
def opsValue : Nat → List WOp → Nat
  | _, [] => 0
  | t0, op :: rest => op.value + 2 ^ op.bitsAt t0 * opsValue (t0 + op.bitsAt t0) rest

theorem opsValue_append : ∀ (xs ys : List WOp) (t0 : Nat),
    opsValue t0 (xs ++ ys) = opsValue t0 xs + 2 ^ opsBits t0 xs * opsValue (t0 + opsBits t0 xs) ys
  | [], ys, t0 => by simp [opsValue, opsBits]
  | op :: xs, ys, t0 => by
    rw [List.cons_append, opsValue, opsValue_append xs ys, opsValue, opsBits_cons, Nat.add_assoc t0, pow_add]
    ring

/-- The operation is one write of the channel (R145). -/
def WOp.Fits : WOp → Prop
  | .bits _ n => n ≤ 32
  | .align => True

/-- A write: the bytes put and the bits then pending are the bits pending before with the new ones above (R145). -/
theorem Bc.write_value {c : Bc} (v : Word) {n : Nat} (hc : c.Writing) (hn : n ≤ 32) :
    c.acc.toNat + 2 ^ c.nbits * (v.toNat % 2 ^ n) = streamValue c.order (c.write params v n).2 +
      2 ^ (8 * (c.write params v n).2.length) * (c.write params v n).1.acc.toNat := by
  obtain ⟨hwf, hmode⟩ := hc
  have hnbits := (hwf.pending hmode).1
  have hsmall := Bc.joined_lt v (n := n) ((acc_shift_eq_zero _ _).mp hwf.1)
  have hfits : c.joined v n < 2 ^ 64 := Nat.lt_of_lt_of_le hsmall (Nat.pow_le_pow_right (by decide) (by omega))
  rw [Bc.write_eq v hwf hmode hn, streamBytes_length, streamValue_streamBytes, BitVec.toNat_ofNat,
    Nat.mod_eq_of_lt (Nat.lt_of_le_of_lt (Nat.div_le_self _ _) hfits), Nat.mod_add_div, Bc.joined, Nat.mul_comm (2 ^ c.nbits)]

/-- Running operations puts the bits of their number (R145, R156). -/
theorem runOps_value : ∀ (ops : List WOp) {c : Bc}, c.Writing → (∀ op ∈ ops, op.Fits) →
    c.acc.toNat + 2 ^ c.nbits * opsValue c.total ops = streamValue c.order (runOps params c ops).2 +
      2 ^ (8 * (runOps params c ops).2.length) * (runOps params c ops).1.acc.toNat
  | [], c, _, _ => by simp [opsValue, runOps, streamValue]
  | op :: rest, c, hc, hfits => by
    obtain ⟨hnbits, htotal⟩ := hc.1.pending hc.2
    obtain ⟨v, hrun, hvalue, hsize⟩ : ∃ v, runOps params c (op :: rest) =
        ((runOps params (c.write params v (op.bitsAt c.total)).1 rest).1,
          (c.write params v (op.bitsAt c.total)).2 ++ (runOps params (c.write params v (op.bitsAt c.total)).1 rest).2) ∧
        op.value = v.toNat % 2 ^ op.bitsAt c.total ∧ op.bitsAt c.total ≤ 32 := by
      cases op with
      | bits v n => exact ⟨v, rfl, rfl, hfits _ List.mem_cons_self⟩
      | align =>
        have hpad : c.padding = WOp.align.bitsAt c.total := by rw [Bc.padding, ← htotal]; rfl
        refine ⟨0, by rw [← hpad]; rfl, by simp [WOp.value], ?_⟩
        show (8 - c.total % 8) % 8 ≤ 32
        omega
    have hfirst := Bc.write_value v hc hsize
    obtain ⟨hlength, hnbits', -, htotal', -, horder, -⟩ := Bc.write_spec params c v (op.bitsAt c.total)
    have hwritten := Bc.written_write params c v (op.bitsAt c.total)
    have hrest := runOps_value rest ⟨hwritten.wf hc.1 hc.2, hwritten.mode.trans hc.2⟩
      fun x hx => hfits x (List.mem_cons_of_mem _ hx)
    rw [hrun, opsValue, hvalue]
    generalize op.bitsAt c.total = n at *
    generalize c.write params v n = r at *
    have hcount : c.nbits + n = 8 * r.2.length + r.1.nbits := by omega
    rw [horder, htotal'] at hrest
    dsimp only
    rw [streamValue_append, List.length_append, Nat.mul_add 8, pow_add]
    calc c.acc.toNat + 2 ^ c.nbits * (v.toNat % 2 ^ n + 2 ^ n * opsValue (c.total + n) rest)
        = c.acc.toNat + 2 ^ c.nbits * (v.toNat % 2 ^ n) + 2 ^ (c.nbits + n) * opsValue (c.total + n) rest := by
          rw [pow_add]; ring
      _ = streamValue c.order r.2 + 2 ^ (8 * r.2.length) *
          (r.1.acc.toNat + 2 ^ r.1.nbits * opsValue (c.total + n) rest) := by rw [hfirst, hcount, pow_add]; ring
      _ = _ := by rw [hrest]; ring

/-! ### Every field of a block is one write -/

theorem putBits_fits {v n : Nat} (hn : n ≤ 32) : (putBits v n).Fits := hn

theorem putCode_fits {t : Table} (ht : ∀ l ∈ t.len, l ≤ 15) (s : Nat) : (putCode t s).Fits := by
  refine putBits_fits ?_
  show t.len.getD s 0 ≤ 32
  rcases Nat.lt_or_ge s t.len.length with hs | hs
  · rw [List.getD_eq_getElem _ _ hs]
    exact Nat.le_trans (ht _ (List.getElem_mem hs)) (by decide)
  · rw [List.getD_eq_default _ _ hs]
    exact Nat.zero_le _

theorem putTokens_fits {ll d : Table} (hll : ∀ l ∈ ll.len, l ≤ 15) (hd : ∀ l ∈ d.len, l ≤ 15) (tokens : List Token) :
    ∀ op ∈ putTokens ll d tokens, op.Fits := by
  intro op hop
  simp only [putTokens, List.mem_append, List.mem_flatten, List.mem_map, List.mem_singleton] at hop
  rcases hop with ⟨_, ⟨token, -, rfl⟩, hop⟩ | rfl
  · cases token with
    | lit b =>
      obtain rfl := List.mem_singleton.mp hop
      exact putCode_fits hll _
    | copy length distance =>
      simp only [putToken, List.mem_cons, List.not_mem_nil, or_false] at hop
      rcases hop with rfl | rfl | rfl | rfl
      · exact putCode_fits hll _
      · exact putBits_fits (Nat.le_trans (lextra_le _) (by decide))
      · exact putCode_fits hd _
      · exact putBits_fits (Nat.le_trans (dextra_le _) (by decide))
  · exact putCode_fits hll _

theorem storedBlock_fits (final : Bool) (piece : List Byte) : ∀ op ∈ storedBlock final piece, op.Fits := by
  intro op hop
  simp only [storedBlock, List.mem_append, List.mem_cons, List.not_mem_nil, or_false, List.mem_map] at hop
  rcases hop with (rfl | rfl | rfl | rfl | rfl) | ⟨b, -, rfl⟩
  · exact putBits_fits (by decide)
  · exact putBits_fits (by decide)
  · trivial
  · exact putBits_fits (by decide)
  · exact putBits_fits (by decide)
  · exact putBits_fits (by decide)

theorem storedBlocks_fits (final : Bool) : ∀ (k : Nat) (raw : List Byte), ∀ op ∈ storedBlocks final k raw, op.Fits
  | 0, _ => by simp [storedBlocks]
  | 1, raw => storedBlock_fits final raw
  | k + 2, raw => by
    intro op hop
    rcases List.mem_append.mp hop with hop | hop
    · exact storedBlock_fits _ _ op hop
    · exact storedBlocks_fits final (k + 1) _ op hop

theorem putRun_fits {cl : Table} (hcl : ∀ l ∈ cl.len, l ≤ 15) (run : Nat × Nat) : ∀ op ∈ putRun cl run, op.Fits := by
  intro op hop
  unfold putRun at hop
  split_ifs at hop <;> simp only [List.mem_cons, List.not_mem_nil, or_false] at hop
  · rcases hop with rfl | rfl
    · exact putCode_fits hcl _
    · exact putBits_fits (by decide)
  · rcases hop with rfl | rfl
    · exact putCode_fits hcl _
    · exact putBits_fits (by decide)
  · rcases hop with rfl | rfl
    · exact putCode_fits hcl _
    · exact putBits_fits (by decide)
  · obtain rfl := hop
    exact putCode_fits hcl _

theorem Block.Of.fits {level : Nat} {input : List Byte} {c : Bc} {p : Nat} {b : Block} (h : b.Of level input c p) :
    ∀ op ∈ b.ops, op.Fits := by
  have hll := h.plan.ll.good.le
  have hd := h.plan.d.good.le
  have hcl : ∀ l ∈ b.plan.cl.len, l ≤ 15 := fun l hl => Nat.le_trans (h.plan.cl.good.le l hl) (by decide)
  intro op hop
  rw [Block.ops] at hop
  cases hkind : b.kind with
  | stored =>
    rw [hkind] at hop
    exact storedBlocks_fits _ _ _ op hop
  | fixedHuffman =>
    rw [hkind] at hop
    rcases List.mem_append.mp hop with hop | hop
    · simp only [List.mem_cons, List.not_mem_nil, or_false] at hop
      rcases hop with rfl | rfl
      · exact putBits_fits (by decide)
      · exact putBits_fits (by decide)
    · exact putTokens_fits fixedLit_good.le fixedDist_good.le _ op hop
  | dynamicHuffman =>
    rw [hkind, blockOps, emitDynamic] at hop
    simp only [List.mem_append, List.mem_cons, List.not_mem_nil, or_false, List.mem_map, List.mem_flatten] at hop
    rcases hop with (((rfl | rfl | rfl | rfl | rfl) | ⟨l, -, rfl⟩) | ⟨_, ⟨run, -, rfl⟩, hop⟩) | hop
    · exact putBits_fits (by decide)
    · exact putBits_fits (by decide)
    · exact putBits_fits (by decide)
    · exact putBits_fits (by decide)
    · exact putBits_fits (by decide)
    · exact putBits_fits (by decide)
    · exact putRun_fits hcl run op hop
    · exact putTokens_fits hll hd _ op hop

theorem Stream.fits {level : Nat} {input : List Byte} {c : Bc} {p : Nat} {blocks : List Block}
    (h : Stream level input c p blocks) : ∀ op ∈ blocks.flatMap Block.ops, op.Fits := by
  induction h with
  | last _ hof _ =>
    rw [List.flatMap_cons, List.flatMap_nil, List.append_nil]
    exact hof.fits
  | more _ hof _ _ _ ih =>
    intro op hop
    rw [List.flatMap_cons, List.mem_append] at hop
    exact hop.elim (hof.fits op) (ih op)

/-- The bytes of a stream are its bits, padded with zeros (R65, R160). -/
theorem Stream.packed_value {level : Nat} {input : List Byte} {p : Nat} {blocks : List Block}
    (h : Stream level input (Bc.init .write .lsbFirst) p blocks) :
    streamValue .lsbFirst (packed blocks) = opsValue 0 (blocks.flatMap Block.ops) := by
  have hwriting : (Bc.init .write .lsbFirst).Writing := ⟨Bc.wf_init _ _, rfl⟩
  have hvalue := runOps_value (blocks.flatMap Block.ops ++ [.align]) hwriting fun op hop => by
    rcases List.mem_append.mp hop with hop | hop
    · exact h.fits op hop
    · obtain rfl := List.mem_singleton.mp hop
      trivial
  obtain ⟨⟨hacc, -, hwrite, -⟩, hmode⟩ := hwriting.runOps (blocks.flatMap Block.ops ++ [.align])
  obtain ⟨hsmall, htotal, -⟩ := hwrite hmode
  have hbytes := (packed_length blocks).1
  have hempty : (runOps params (Bc.init .write .lsbFirst) (blocks.flatMap Block.ops ++ [.align])).1.acc.toNat = 0 := by
    have hlt := (acc_shift_eq_zero _ _).mp hacc
    rw [show (runOps params (Bc.init .write .lsbFirst) (blocks.flatMap Block.ops ++ [.align])).1.nbits = 0 by omega] at hlt
    omega
  rw [hempty, opsValue_append] at hvalue
  simpa [packed, Bc.init, opsValue, WOp.value] using hvalue.symm

/-! ### Stored blocks on byte boundaries (R261, R273, R279) -/

theorem opsValue_bytes : ∀ (bytes : List Byte) (t0 : Nat),
    opsValue t0 (bytes.map fun b => putBits b.toNat 8) = streamValue .lsbFirst bytes
  | [], _ => rfl
  | b :: rest, t0 => by
    have hb := b.isLt
    rw [List.map_cons, opsValue, opsValue_bytes rest, streamValue]
    simp only [putBits, WOp.value, WOp.bitsAt, passes, BitVec.toNat_ofNat]
    omega

/-- `LEN` complemented (R273). -/
theorem xor_65535 {n : Nat} (hn : n < 65536) : n ^^^ 0xFFFF = 65535 - n := by
  have hnot : (BitVec.ofNat 16 n ^^^ BitVec.allOnes 16).toNat = (~~~BitVec.ofNat 16 n).toNat := by
    rw [BitVec.xor_allOnes]
  rw [BitVec.toNat_xor, BitVec.toNat_not, BitVec.toNat_ofNat, Nat.mod_eq_of_lt hn] at hnot
  exact hnot

theorem opsValue_storedBlock {t0 : Nat} (ht0 : t0 % 8 = 0) (final : Bool) {piece : List Byte}
    (hpiece : piece.length < 65536) :
    opsValue t0 (storedBlock final piece) = streamValue .lsbFirst (storedBlockBytes final piece) := by
  have hpad : (8 - (t0 + 1 + 2) % 8) % 8 = 5 := by omega
  have hfinal : final.toNat < 2 := by cases final <;> decide
  have hnot : ∀ n, (~~~BitVec.ofNat 8 n).toNat = 255 - n % 256 := fun n => by rw [BitVec.toNat_not, BitVec.toNat_ofNat]
  simp only [storedBlock, storedBlockBytes, List.cons_append, List.nil_append, opsValue, opsValue_bytes, streamValue]
  simp only [putBits, WOp.value, WOp.bitsAt, passes, BitVec.toNat_ofNat, hpad, hnot, xor_65535 hpiece]
  omega

theorem length_storedBlockBytes (final : Bool) (piece : List Byte) :
    (storedBlockBytes final piece).length = piece.length + 5 := by
  rw [storedBlockBytes, List.length_append, Nat.add_comm]
  rfl

theorem opsBits_storedBlock_aligned {t0 : Nat} (ht0 : t0 % 8 = 0) (final : Bool) (piece : List Byte) :
    opsBits t0 (storedBlock final piece) = 8 * (storedBlockBytes final piece).length := by
  rw [opsBits_storedBlock, length_storedBlockBytes]
  omega

theorem length_storedFileFrom : ∀ (k : Nat) (bytes : List Byte),
    (storedFileFrom k bytes).length = bytes.length + 5 * (k + 1)
  | 0, bytes => length_storedBlockBytes true bytes
  | k + 1, bytes => by
    rw [storedFileFrom, List.length_append, length_storedBlockBytes, length_storedFileFrom k, List.length_take,
      List.length_drop]
    omega

/-- At level 0 a block is one stored block of its bytes (R261, R272). -/
theorem Block.Of.stored {input : List Byte} {c : Bc} {p : Nat} {b : Block} (h : b.Of 0 input c p)
    (hliterals : ∀ t ∈ b.tokens, t.covers = 1) :
    b.ops = storedBlock b.final b.raw ∧ b.raw = (input.drop p).take b.tokens.length ∧
      b.raw.length = b.tokens.length := by
  have hcovered := covered_of_literals hliterals
  have hraw := h.raw
  have hinside := h.covering.inside
  rw [hcovered] at hraw hinside
  have hlength : b.raw.length = b.tokens.length := by
    rw [hraw, List.length_take, List.length_drop]
    omega
  have hpieces : storedPieces b.raw.length = 1 := by
    have hfew := h.few
    rw [storedPieces, storedMax]
    omega
  have hkind : b.kind = .stored := h.kind
  refine ⟨?_, hraw, hlength⟩
  rw [Block.ops, hkind, blockOps, emitStored, hpieces, storedBlocks]

/-- At level 0 a stream that starts on a byte boundary is the stored form of its input (R279). -/
theorem Stream.stored {input : List Byte} {c : Bc} {p : Nat} {blocks : List Block} (h : Stream 0 input c p blocks) :
    c.Writing → c.total % 8 = 0 → (∀ t ∈ blocks.flatMap Block.tokens, t.covers = 1) →
    opsValue c.total (blocks.flatMap Block.ops) =
        streamValue .lsbFirst (storedFileFrom ((input.length - p - 1) / 16384) (input.drop p)) ∧
      opsBits c.total (blocks.flatMap Block.ops) =
        8 * (storedFileFrom ((input.length - p - 1) / 16384) (input.drop p)).length := by
  induction h with
  | @last c p b hfinal hof hend =>
    intro _ haligned hliterals
    rw [List.flatMap_cons, List.flatMap_nil, List.append_nil] at hliterals ⊢
    obtain ⟨hops, hraw, hlength⟩ := hof.stored hliterals
    have hfew := hof.few
    rw [covered_of_literals hliterals] at hend
    have hall : b.raw = input.drop p := by
      rw [hraw]
      exact List.take_of_length_le (by rw [List.length_drop]; omega)
    rw [show (input.length - p - 1) / 16384 = 0 by omega, storedFileFrom, hops, hfinal, ← hall]
    exact ⟨opsValue_storedBlock haligned true (by omega), opsBits_storedBlock_aligned haligned true b.raw⟩
  | @more c p b blocks hopen hof hfull hmore _ ih =>
    intro hwriting haligned hliterals
    rw [List.flatMap_cons] at hliterals ⊢
    have hfirst : ∀ t ∈ b.tokens, t.covers = 1 := fun t ht => hliterals t (List.mem_append_left _ ht)
    obtain ⟨hops, hraw, hlength⟩ := hof.stored hfirst
    rw [covered_of_literals hfirst, hfull] at hmore ih
    rw [hfull] at hraw
    have hbits := opsBits_storedBlock_aligned haligned b.final b.raw
    have htotal := (hwriting.counts b.ops).1
    obtain ⟨hvalue, hcount⟩ := ih (hwriting.runOps b.ops) (by rw [htotal, hops, hbits]; omega)
      fun t ht => hliterals t (List.mem_append_right _ ht)
    rw [htotal] at hvalue hcount
    have hblocks : (input.length - p - 1) / 16384 = (input.length - (p + 16384) - 1) / 16384 + 1 := by omega
    rw [hblocks, storedFileFrom, List.drop_drop, ← hraw, ← hopen, opsValue_append, opsBits_append, hvalue, hcount, hops,
      opsValue_storedBlock haligned _ (by omega), hbits, streamValue_append, List.length_append, Nat.mul_add]
    exact ⟨rfl, rfl⟩

/-- Bytes are determined by their number and their bits (R65). -/
theorem streamValue_injective : ∀ {bs cs : List Byte}, bs.length = cs.length →
    streamValue .lsbFirst bs = streamValue .lsbFirst cs → bs = cs
  | [], [], _, _ => rfl
  | b :: bs, c :: cs, hlength, hvalue => by
    have hb := b.isLt
    have hc := c.isLt
    simp only [streamValue, passes] at hvalue
    rw [show b = c from BitVec.eq_of_toNat_eq (by omega),
      streamValue_injective (Nat.succ.inj hlength) (by omega : streamValue .lsbFirst bs = streamValue .lsbFirst cs)]

/-- Settles O53: the stream of stored blocks is the bits of the stored form (`Stream.stored`). -/
theorem bkCompressLevelZero : Obligations.BkCompressLevelZero := by
  intro s hn
  obtain ⟨blocks, t, hexec, hcompressed, h⟩ := exec_bkCompress (level := 0) (s := s) (by decide) hn
  have hzero : (0#4).toNat = 0 := rfl
  obtain ⟨hvalue, hbits⟩ := hcompressed.stream.stored ⟨Bc.wf_init _ _, rfl⟩ rfl (hcompressed.literals hzero)
  obtain ⟨-, hfull, hpadded⟩ := packed_length blocks
  have hlength := length_storedFileFrom ((s.port.src.length - 1) / 16384) s.port.src
  have hequal : packed blocks = storedFile s.port.src := by
    refine streamValue_injective ?_ (hcompressed.stream.packed_value.trans hvalue)
    have hbits : opsBits 0 (blocks.flatMap Block.ops) = 8 * (storedFile s.port.src).length := hbits
    omega
  refine ⟨t, hexec, ?_, ?_, ?_⟩
  · rw [h.sink, hequal]
  · rw [storedFile, hlength, blocksFor]
    omega
  · rw [h.responses, hequal]

end Sys2Proof.Machine
end

section

namespace Sys2Proof.Machine

theorem opsValue_lt : ∀ (ops : List WOp) (t0 : Nat), opsValue t0 ops < 2 ^ opsBits t0 ops
  | [], _ => Nat.one_pos
  | op :: rest, t0 => by
    have hrest := opsValue_lt rest (t0 + op.bitsAt t0)
    have hfirst : op.value < 2 ^ op.bitsAt t0 := by
      cases op with
      | bits v n => exact Nat.mod_lt _ (Nat.two_pow_pos n)
      | align => exact Nat.two_pow_pos _
    rw [opsValue, opsBits_cons, pow_add]
    calc op.value + 2 ^ op.bitsAt t0 * opsValue (t0 + op.bitsAt t0) rest
        < 2 ^ op.bitsAt t0 * (opsValue (t0 + op.bitsAt t0) rest + 1) := by rw [Nat.mul_succ]; omega
      _ ≤ _ := Nat.mul_le_mul_left _ hrest

/-! ### The buckets of lengths and distances (R110, R111) -/

/-- In a rising list the entries at most `x` come first. -/
theorem countP_rising (x : Nat) : ∀ {xs : List Nat}, xs.Pairwise (· < ·) →
    (∀ i, i < xs.countP (fun b => decide (b ≤ x)) → xs.getD i 0 ≤ x) ∧
      (∀ i, xs.countP (fun b => decide (b ≤ x)) ≤ i → i < xs.length → x < xs.getD i 0)
  | [], _ => by simp
  | y :: ys, h => by
    obtain ⟨hy, hys⟩ := List.pairwise_cons.mp h
    by_cases hle : y ≤ x
    · obtain ⟨hbelow, habove⟩ := countP_rising x hys
      rw [List.countP_cons_of_pos (by simpa using hle)]
      refine ⟨fun i hi => ?_, fun i hi hlen => ?_⟩
      · match i with
        | 0 => exact hle
        | i + 1 => exact hbelow i (by omega)
      · match i with
        | i + 1 => exact habove i (by omega) (by simpa using hlen)
    · have hnone : (y :: ys).countP (fun b => decide (b ≤ x)) = 0 := by
        rw [List.countP_eq_zero]
        intro b hb
        rcases List.mem_cons.mp hb with rfl | hb
        · simpa using hle
        · have := hy b hb
          simp; omega
      rw [hnone]
      refine ⟨fun i hi => absurd hi (Nat.not_lt_zero i), fun i _ hlen => ?_⟩
      match i with
      | 0 => simp; omega
      | i + 1 =>
        have hi : i < ys.length := by simpa using hlen
        have := hy _ (List.getElem_mem hi)
        simp [List.getElem?_eq_getElem hi]; omega

/-- The entry a rising list gives `x` is the last one at most `x`. -/
theorem lastAtMost_rising {x : Nat} {xs : List Nat} (h : xs.Pairwise (· < ·)) (hfirst : xs.getD 0 0 ≤ x) (hne : xs ≠ []) :
    lastAtMost x xs < xs.length ∧ xs.getD (lastAtMost x xs) 0 ≤ x ∧
      (lastAtMost x xs + 1 < xs.length → x < xs.getD (lastAtMost x xs + 1) 0) := by
  obtain ⟨hbelow, habove⟩ := countP_rising x h
  have hlength : 0 < xs.length := List.length_pos_of_ne_nil hne
  have hmost := List.countP_le_length (p := fun b => decide (b ≤ x)) (l := xs)
  have hone : 0 < xs.countP (fun b => decide (b ≤ x)) := by
    rcases Nat.eq_zero_or_pos (xs.countP fun b => decide (b ≤ x)) with h0 | h0
    · have := habove 0 (by omega) hlength
      omega
    · exact h0
  rw [lastAtMost]
  exact ⟨by omega, hbelow _ (by omega), fun hlt => habove _ (by omega) hlt⟩

theorem lsym_bucket {length : Nat} (h3 : 3 ≤ length) (h258 : length ≤ 258) :
    lsym length ≤ 28 ∧ lbase (lsym length) ≤ length ∧ length - lbase (lsym length) < 2 ^ lextra (lsym length) := by
  rw [lsym, maxMatch]
  split
  · rename_i hmax
    subst hmax
    decide
  · rename_i hmax
    obtain ⟨hlt, hle, hnext⟩ := lastAtMost_rising (x := length) (xs := lbaseList.take 28) (by decide) h3 (by decide)
    have hrows : ∀ i < 28, lbase i = (lbaseList.take 28).getD i 0 ∧
        (i = 27 ∧ lbase i + 2 ^ lextra i = 259 ∨ i + 1 < 28 ∧ lbase i + 2 ^ lextra i = (lbaseList.take 28).getD (i + 1) 0) := by
      decide
    have hlt : lastAtMost length (lbaseList.take 28) < 28 := hlt
    obtain ⟨hbase, hend⟩ := hrows _ hlt
    generalize lastAtMost length (lbaseList.take 28) = i at *
    refine ⟨by omega, by omega, ?_⟩
    rcases hend with ⟨-, hend⟩ | ⟨hmore, hend⟩
    · omega
    · have := hnext hmore
      omega

theorem dsym_bucket {distance : Nat} (h1 : 1 ≤ distance) (hmax : distance ≤ 32768) :
    dsym distance < 30 ∧ dbase (dsym distance) ≤ distance ∧
      distance - dbase (dsym distance) < 2 ^ dextra (dsym distance) := by
  obtain ⟨hlt, hle, hnext⟩ := lastAtMost_rising (x := distance) (xs := dbaseList) (by decide) h1 (by decide)
  have hrows : ∀ i < 30, i = 29 ∧ dbase i + 2 ^ dextra i = 32769 ∨
      i + 1 < 30 ∧ dbase i + 2 ^ dextra i = dbaseList.getD (i + 1) 0 := by decide
  have hlt : lastAtMost distance dbaseList < 30 := hlt
  have hend := hrows _ hlt
  rw [dsym, dbase]
  rw [dbase] at hend
  generalize lastAtMost distance dbaseList = i at *
  refine ⟨hlt, hle, ?_⟩
  rcases hend with ⟨-, hend⟩ | ⟨hmore, hend⟩
  · omega
  · have := hnext hmore
    omega

/-! ### Run-length coded lengths (R122, R267) -/

/-- How many lengths a pair stands for (R122). -/
def runCount (p : Nat × Nat) : Nat := if p.1 < 16 then 1 else p.2

/-- The length a pair stands for, after the lengths before it (R122). -/
def runValue (out : List Nat) (p : Nat × Nat) : Nat :=
  if p.1 < 16 then p.1 else if p.1 = 16 then out.getLastD 0 else 0

theorem expandRuns_cons (out : List Nat) (p : Nat × Nat) (rest : List (Nat × Nat)) :
    expandRuns out (p :: rest) = expandRuns (out ++ List.replicate (runCount p) (runValue out p)) rest := by
  obtain ⟨sym, k⟩ := p
  simp only [expandRuns, runCount, runValue]
  split_ifs <;> rfl

theorem expandRuns_append : ∀ (xs ys : List (Nat × Nat)) (out : List Nat),
    expandRuns out (xs ++ ys) = expandRuns (expandRuns out xs) ys
  | [], _, _ => rfl
  | p :: xs, ys, out => by rw [List.cons_append, expandRuns_cons, expandRuns_append xs ys, expandRuns_cons]

theorem frontRun_prefix (v : Nat) : ∀ (xs : List Nat) {k : Nat}, k ≤ frontRun v xs → xs.take k = List.replicate k v
  | _, 0, _ => rfl
  | [], k + 1, h => by simp [frontRun] at h
  | x :: xs, k + 1, h => by
    rw [frontRun] at h
    split at h
    · rename_i hx
      rw [List.take_succ_cons, frontRun_prefix v xs (by omega), hx, List.replicate_succ]
    · omega

theorem repeats_expand {v : Nat} : ∀ (fuel rem : Nat) (out : List Nat), out.getLastD 0 = v → out ≠ [] →
    expandRuns out (repeats fuel rem) = out ++ List.replicate ((repeats fuel rem).map Prod.snd).sum v ∧
      ((repeats fuel rem).map Prod.snd).sum ≤ rem ∧ ∀ p ∈ repeats fuel rem, runInRange p = true
  | 0, rem, out, _, _ => by simp [repeats, expandRuns]
  | fuel + 1, rem, out, hlast, hne => by
    rw [repeats]
    split
    · rename_i h3
      have hvalue : runValue out (16, min rem 6) = v := hlast
      have hcount : runCount (16, min rem 6) = min rem 6 := rfl
      obtain ⟨hexpand, hsum, hrange⟩ := repeats_expand (v := v) fuel (rem - min rem 6)
        (out ++ List.replicate (min rem 6) v) (by
          obtain ⟨k, hk⟩ := Nat.exists_eq_succ_of_ne_zero (show min rem 6 ≠ 0 by omega)
          rw [hk, List.replicate_succ', ← List.append_assoc, List.getLastD_concat])
        (by simp [hne])
      refine ⟨?_, ?_, ?_⟩
      · rw [expandRuns_cons, hvalue, hcount, hexpand, List.map_cons, List.sum_cons, List.replicate_add,
          List.append_assoc]
      · rw [List.map_cons, List.sum_cons]
        dsimp only
        omega
      · intro p hp
        rcases List.mem_cons.mp hp with rfl | hp
        · simp [runInRange]; omega
        · exact hrange p hp
    · simp [expandRuns]

/-- What the decoder needs of a run-length coding: the lengths it stands for, that its pairs can be written, and that it
does not begin with a repeat of the length before (R122, R314). -/
structure CodedRuns (out : List Nat) (runs : List (Nat × Nat)) (lens : List Nat) : Prop where
  expand : expandRuns out runs = out ++ lens
  range  : ∀ p ∈ runs, runInRange p = true
  fresh  : ∀ p ∈ runs.head?, p.1 ≠ 16

theorem CodedRuns.cons {out : List Nat} {p : Nat × Nat} {reps rest : List (Nat × Nat)} {first lens : List Nat}
    (hfirst : expandRuns out (p :: reps) = out ++ first) (hp : runInRange p = true) (h16 : p.1 ≠ 16)
    (hreps : ∀ q ∈ reps, runInRange q = true) (hrest : CodedRuns (out ++ first) rest lens) :
    CodedRuns out (p :: reps ++ rest) (first ++ lens) where
  expand := by rw [expandRuns_append, hfirst, hrest.expand, List.append_assoc]
  range := fun q hq => by
    rcases List.mem_append.mp hq with hq | hq
    · rcases List.mem_cons.mp hq with rfl | hq
      · exact hp
      · exact hreps q hq
    · exact hrest.range q hq
  fresh := fun q hq => by
    cases hq
    exact h16

theorem rleFrom_coded : ∀ (fuel : Nat) (lens out : List Nat), lens.length ≤ fuel → (∀ l ∈ lens, l ≤ 15) →
    CodedRuns out (rleFrom fuel lens) lens
  | 0, lens, out, hfuel, _ => by
    obtain rfl := List.length_eq_zero_iff.mp (Nat.le_zero.mp hfuel)
    exact ⟨by simp [rleFrom, expandRuns], by simp [rleFrom], by simp [rleFrom]⟩
  | _ + 1, [], out, _, _ => ⟨by simp [rleFrom, expandRuns], by simp [rleFrom], by simp [rleFrom]⟩
  | fuel + 1, v :: rest, out, hfuel, hle => by
    rw [List.length_cons] at hfuel
    have hv : v ≤ 15 := hle v List.mem_cons_self
    have hfront : frontRun v (v :: rest) = frontRun v rest + 1 := if_pos rfl
    /- a first part of `k` equal lengths, coded by one pair and its repeats -/
    have hpart : ∀ (k : Nat) (p : Nat × Nat) (reps : List (Nat × Nat)), 1 ≤ k → k ≤ frontRun v rest + 1 →
        expandRuns out (p :: reps) = out ++ List.replicate k v → runInRange p = true → p.1 ≠ 16 →
        (∀ q ∈ reps, runInRange q = true) →
        CodedRuns out (p :: reps ++ rleFrom fuel ((v :: rest).drop k)) (v :: rest) := by
      intro k p reps hk hrun hfirst hp h16 hreps
      have hsplit : v :: rest = List.replicate k v ++ (v :: rest).drop k := by
        rw [← frontRun_prefix v (v :: rest) (by omega), List.take_append_drop]
      have hcoded := CodedRuns.cons hfirst hp h16 hreps (rleFrom_coded fuel ((v :: rest).drop k) _
        (by rw [List.length_drop, List.length_cons]; omega) fun l hl => hle l (List.mem_of_mem_drop hl))
      rwa [← hsplit] at hcoded
    rw [rleFrom]
    dsimp only
    split
    · rename_i h0
      subst h0
      split
      · exact hpart (min (frontRun 0 rest + 1) 138) (18, min (frontRun 0 rest + 1) 138) [] (by omega) (by omega) rfl
          (by simp [runInRange]; omega) (by simp) (by simp)
      · split
        · exact hpart (frontRun 0 rest + 1) (17, frontRun 0 rest + 1) [] (by omega) (by omega) rfl
            (by simp [runInRange]; omega) (by simp) (by simp)
        · exact hpart 1 (0, 0) [] (by omega) (by omega) rfl (by decide) (by simp) (by simp)
    · rename_i h0
      have hone : runCount (v, 0) = 1 := if_pos (by dsimp only; omega)
      have hvalue : runValue out (v, 0) = v := if_pos (by dsimp only; omega)
      obtain ⟨hexpand, hsum, hrange⟩ := repeats_expand (v := v) (frontRun v rest + 1) (frontRun v rest) (out ++ [v])
        List.getLastD_concat (by simp)
      have hdrop := hpart (1 + ((repeats (frontRun v rest + 1) (frontRun v rest)).map Prod.snd).sum) (v, 0)
        (repeats (frontRun v rest + 1) (frontRun v rest)) (by omega) (by omega)
        (by
          rw [expandRuns_cons, hone, hvalue]
          exact hexpand.trans (by rw [Nat.add_comm 1, List.replicate_succ, List.append_assoc]; rfl))
        (by simp [runInRange]; omega) (by dsimp only; omega) hrange
      rwa [Nat.add_comm 1, List.drop_succ_cons] at hdrop

/-- The run-length coding can be undone (R122, R267). -/
theorem rle_coded {lens : List Nat} (h : ∀ l ∈ lens, l ≤ 15) : CodedRuns [] (rle lens) lens :=
  rleFrom_coded _ lens [] (Nat.le_refl _) h

/-! ### Lengths without the zeros at their end (R265) -/

theorem drop_lastUsed {xs : List Nat} {n : Nat} (h : lastUsed xs ≤ n) :
    xs.drop n = List.replicate (xs.length - n) 0 := by
  have hfront := frontRun_prefix 0 xs.reverse (k := xs.length - n) (by rw [lastUsed] at h; omega)
  have htake : (xs.drop n).reverse = List.replicate (xs.length - n) 0 := by rw [List.reverse_drop, hfront]
  rw [← List.reverse_reverse (xs.drop n), htake, List.reverse_replicate]

theorem take_lastUsed {xs : List Nat} {n : Nat} (h : lastUsed xs ≤ n) :
    xs = xs.take n ++ List.replicate (xs.length - n) 0 := by
  rw [← drop_lastUsed h, List.take_append_drop]

theorem kraftSum_append (limit : Nat) (xs ys : List Nat) :
    kraftSum limit (xs ++ ys) = kraftSum limit xs + kraftSum limit ys := by simp [kraftSum]

theorem kraftSum_zeros (limit k : Nat) : kraftSum limit (List.replicate k 0) = 0 := by simp [kraftSum]

theorem shorterCodes_zeros (k l : Nat) : shorterCodes (List.replicate k 0) l = 0 := by simp [shorterCodes]

theorem GoodLens.take {limit : Nat} {xs : List Nat} {n : Nat} (h : GoodLens limit xs) (hn : lastUsed xs ≤ n) :
    GoodLens limit (xs.take n) where
  le := fun l hl => h.le l (List.mem_of_mem_take hl)
  kraft := by
    have hkraft := h.kraft
    rwa [take_lastUsed hn, kraftSum_append, kraftSum_zeros, Nat.add_zero] at hkraft

/-- The zeros at the end of the lengths take no codes (R208). -/
theorem canonicalCode_take {xs : List Nat} {n s : Nat} (hn : lastUsed xs ≤ n) (hs : xs.getD s 0 ≠ 0) :
    s < n ∧ s < xs.length ∧ (xs.take n).getD s 0 = xs.getD s 0 ∧ canonicalCode (xs.take n) s = canonicalCode xs s := by
  have hlen : s < xs.length := by
    rcases Nat.lt_or_ge s xs.length with h | h
    · exact h
    · exact absurd (List.getD_eq_default _ _ h) hs
  have hsn : s < n := by
    rcases Nat.lt_or_ge s n with h | h
    · exact h
    · rw [take_lastUsed hn, List.getD_append_right _ _ _ _ (by rw [List.length_take]; omega)] at hs
      simp at hs
  have hget : (xs.take n).getD s 0 = xs.getD s 0 := by simp [hsn]
  refine ⟨hsn, hlen, hget, ?_⟩
  obtain ⟨pre, suf, hsplit, hpre⟩ := mem_len_split (len := xs.take n) (by rw [List.length_take]; omega) hget
  generalize xs.getD s 0 = l at *
  have hall : xs = pre ++ l :: (suf ++ List.replicate (xs.length - n) 0) := by
    conv_lhs => rw [take_lastUsed hn, hsplit]
    simp
  have hshorter : shorterCodes xs l = shorterCodes (xs.take n) l := by
    conv_lhs => rw [take_lastUsed hn]
    rw [shorterCodes_append, shorterCodes_zeros, Nat.add_zero]
  calc canonicalCode (xs.take n) s = shorterCodes (xs.take n) l + pre.count l := by
        rw [hsplit, ← hpre, canonicalCode_split pre suf hs]
    _ = shorterCodes xs l + pre.count l := by rw [hshorter]
    _ = canonicalCode xs s := by rw [hall, ← hpre, canonicalCode_split pre _ hs]

end Sys2Proof.Machine
end

section

namespace Sys2Proof.Machine

/-! ### Reading inside a session (R147, R148, R214) -/

/-- The channel can be read (R25). -/
abbrev Bc.Reading (c : Bc) : Prop := c.Wf ∧ c.mode = .read

/-- `n` bits have been taken from the stream (R147). -/
structure State.Takes (s t : State) (n : Nat) : Prop where
  reads     : s.Reads t
  total     : t.bc.total = s.bc.total + n
  available : t.available + n = s.available
  upcoming  : t.upcoming = s.upcoming / 2 ^ n
  source    : t.port.src <:+ s.port.src
  pending   : s.bc.nbits < 8 → t.bc.nbits < 8

section
variable {s : State} {n : Nat} (hs : s.bc.Reading) (hn : n ≤ 32) (havail : n ≤ s.available)
include hs hn havail

theorem State.takes_skip : s.Takes ((s.setChannel (Bc.need n s.bc s.port.src)).skip n) n := by
  obtain ⟨hwf, hmode⟩ := hs
  have henough := Bc.need_suffices havail
  have hskip := Bc.upcoming_skip (Bc.need n s.bc s.port.src).2 henough
  have hreads := (Bc.reads_need hn s.bc s.port.src).trans (Bc.reads_skip henough)
  have hremain := Bc.need_available n s.bc s.port.src
  rw [Bc.upcoming_need hn _ _ hwf hmode, ← State.upcoming_eq] at hskip
  obtain ⟨k, -, hsrc, -, -, htotal, -, -, -, -, -, hminimal⟩ := Bc.need_spec n s.port.src s.bc
  generalize Bc.need n s.bc s.port.src = r at *
  refine ⟨⟨rfl, hreads⟩, congrArg (· + n) htotal, ?_, hskip, ?_, fun hpending => ?_⟩
  · show r.1.nbits - n + 8 * r.2.length + n = s.bc.nbits + 8 * s.port.src.length
    omega
  · show r.2 <:+ s.port.src
    exact hsrc ▸ List.drop_suffix k s.port.src
  · show r.1.nbits - n < 8
    omega

theorem State.peek_ok :
    s.peek params n = .ok (s.upcoming % 2 ^ n) (s.setChannel (Bc.need n s.bc s.port.src)) := by
  have henough := Bc.need_suffices havail
  have hpeek := Bc.peek_eq_upcoming (Bc.need n s.bc s.port.src).2 hn henough
  rw [Bc.upcoming_need hn _ _ hs.1 hs.2, ← State.upcoming_eq] at hpeek
  have hneed : s.need n = .ok () (s.setChannel (Bc.need n s.bc s.port.src)) := if_neg (Nat.not_lt.mpr henough)
  rw [State.peek, hneed, ← hpeek]
  rfl

/-- A field the source can supply is read (R147). -/
theorem State.read_takes : ∃ t, s.read params n = .ok (s.upcoming % 2 ^ n) t ∧ s.Takes t n := by
  refine ⟨_, ?_, State.takes_skip hs hn havail⟩
  rw [State.read, State.peek_ok hs hn havail]
  rfl

end

/-- Alignment drops the bits up to the byte boundary (R157). -/
theorem State.alignRead_takes {s : State} (hs : s.bc.Reading) (hpending : s.bc.nbits < 8) :
    s.Takes { s with bc := s.bc.alignRead } ((8 - s.bc.total % 8) % 8) := by
  obtain ⟨-, hbytes, -⟩ := (Bc.wf_read_iff hs.2).mp hs.1
  have hpartial : (8 - s.bc.total % 8) % 8 = s.bc.nbits := by omega
  have hskip := State.takes_skip hs (n := s.bc.nbits) (by omega) (Nat.le_add_right _ _)
  rw [Bc.need_enough _ (Nat.le_refl _)] at hskip
  rw [Bc.alignRead, Bc.partialBits, Nat.mod_eq_of_lt hpending, hpartial]
  exact hskip

/-- A table of the decoder reads what a table of the encoder writes (R104). -/
structure Table.Inverts (t enc : Table) : Prop where
  valid    : t.valid = true
  wf       : t.Wf
  complete : t.Complete
  codes    : ∀ v, enc.len.getD v 0 ≠ 0 → v < t.n ∧ t.codeOf v = enc.codeOf v

section
variable {s : State} {k v : Nat} {enc : Table} (hs : s.bc.Reading) (ht : (s.table k).Inverts enc)
  (hv : enc.len.getD v 0 ≠ 0) (hnext : s.upcoming % 2 ^ enc.len.getD v 0 = revBits (enc.len.getD v 0) (enc.code.getD v 0))
include hs ht hv hnext

/-- The look-up of a symbol whose code comes next (R221). -/
theorem State.lookup_ok (havail : enc.len.getD v 0 ≤ s.available) :
    enc.len.getD v 0 ≤ 15 ∧ s.lookup params k = .ok (v, enc.len.getD v 0)
      (s.setChannel (Bc.need (enc.len.getD v 0) s.bc s.port.src)) := by
  obtain ⟨hlt, hcode⟩ := ht.codes v hv
  obtain ⟨hcode, hlen⟩ := Prod.mk.inj hcode
  rw [← hcode] at hnext
  obtain ⟨h15, hlookup⟩ := Table.lookup_code ht.valid ht.wf ht.complete hlt hlen hv hs.1 hs.2 havail
    ((State.upcoming_eq s ▸ hnext).trans (codeField_eq_revBits _ _).symm)
  refine ⟨h15, ?_⟩
  rw [State.lookup, hlookup]

theorem State.decodeSym_takes (havail : enc.len.getD v 0 ≤ s.available) :
    ∃ t, s.decodeSym params k = .ok v t ∧ s.Takes t (enc.len.getD v 0) := by
  obtain ⟨h15, hlookup⟩ := State.lookup_ok hs ht hv hnext havail
  refine ⟨_, ?_, State.takes_skip hs (Nat.le_trans h15 (by decide)) havail⟩
  rw [State.decodeSym, hlookup]
  rfl

/-- A symbol of a code-length code and the extra bits behind it are read together (R314). -/
theorem State.lookup_peek_takes {x : Nat} (hx : x ≤ 7) (havail : enc.len.getD v 0 + x ≤ s.available) :
    ∃ t u, s.lookup params k = .ok (v, enc.len.getD v 0) t ∧
      t.peek params (enc.len.getD v 0 + x) = .ok (s.upcoming % 2 ^ (enc.len.getD v 0 + x)) u ∧
      (∃ r, u = s.setChannel r) ∧ s.Takes (u.skip (enc.len.getD v 0 + x)) (enc.len.getD v 0 + x) := by
  obtain ⟨h15, hlookup⟩ := State.lookup_ok hs ht hv hnext (by omega)
  generalize enc.len.getD v 0 = l at *
  have hreads := Bc.reads_need (n := l) (by omega) s.bc s.port.src
  have hremain := Bc.need_available l s.bc s.port.src
  have hpeek := State.peek_ok (s := s.setChannel (Bc.need l s.bc s.port.src)) (n := l + x)
    ⟨hreads.wf hs.1 hs.2, hreads.mode.trans hs.2⟩ (by omega) (Nat.le_trans havail (Nat.le_of_eq hremain.symm))
  have hupcoming : (s.setChannel (Bc.need l s.bc s.port.src)).upcoming = s.upcoming :=
    Bc.upcoming_need (by omega) s.port.src s.bc hs.1 hs.2
  have hneed : Bc.need (l + x) (s.setChannel (Bc.need l s.bc s.port.src)).bc
      (s.setChannel (Bc.need l s.bc s.port.src)).port.src = Bc.need (l + x) s.bc s.port.src :=
    Bc.need_need_of_le (Nat.le_add_right l x) s.port.src s.bc
  rw [hupcoming, hneed] at hpeek
  exact ⟨_, _, hlookup, hpeek, ⟨_, rfl⟩, State.takes_skip hs (by omega) havail⟩

end

end Sys2Proof.Machine
end

section

namespace Sys2Proof.Machine

/-! ### Completed micro-steps in turn (R300) -/

/-- Completed micro-steps lead from a state to another. -/
inductive State.Runs : State → State → Prop
  | refl (s : State) : Runs s s
  | step {s t u : State} : microStep params s = some (.ok () t) → Runs t u → Runs s u

theorem State.Runs.trans {s t u : State} (h : s.Runs t) (h' : t.Runs u) : s.Runs u := by
  induction h with
  | refl => exact h'
  | step hstep _ ih => exact .step hstep (ih h')

theorem State.InDecode.step {s t : State} (hs : s.InDecode) (h : microStep params s = some (.ok () t)) : t.InDecode := by
  cases microStep_post params hs h with
  | done ht => exact ht.1

/-! ### What the window holds (R303) -/

/-- The window has been given the bytes `out`, the last of which it holds (R30). -/
structure Sw.Shows (w : Sw) (out : List Byte) : Prop where
  cursor : w.cursor = out.length
  holds  : w.HoldsFrom 0 fun j => out.getD j 0

theorem Sw.Shows.push {w : Sw} {out : List Byte} (h : w.Shows out) (hwf : w.win.wf = true) (b : Byte) :
    (w.push b).Shows (out ++ [b]) where
  cursor := by
    rw [List.length_append, List.length_singleton, ← h.cursor]
    rfl
  holds := by
    have hagree : w.HoldsFrom 0 fun j => (out ++ [b]).getD j 0 := fun j hj hkept => by
      have hj' : j < out.length := by rw [← h.cursor]; omega
      exact (h.holds j hj hkept).trans (List.getD_append _ _ _ _ hj').symm
    have hlast : (out ++ [b]).getD (w.cursor - 0) 0 = b := by
      rw [h.cursor, Nat.sub_zero, List.getD_append_right _ _ _ _ (Nat.le_refl _), Nat.sub_self]
      rfl
    have hpush := hagree.push hwf
    rwa [hlast] at hpush

theorem Sw.Shows.get {w : Sw} {out : List Byte} (h : w.Shows out) {d : Nat} (h1 : 1 ≤ d) (hout : d ≤ out.length)
    (hcap : d ≤ w.cap) : w.get d = some (out.getD (out.length - d) 0) := by
  have hcursor := h.cursor
  have hreach : w.reaches d = true := (Sw.reaches_iff_one_le w d).mpr ⟨h1, by omega⟩
  have hbyte := h.holds (w.cursor - d) (by omega) (by omega)
  rw [Nat.zero_add] at hbyte
  rw [Sw.get, if_pos hreach, Sw.back, hbyte, hcursor]

/-! ### In the middle of a stream -/

/-- The bits of `ops`, then `rest`, are what the session has yet to read of the source it began with (R65). -/
structure State.Sees (s s0 : State) (rest : List Byte) (ops : List WOp) : Prop where
  upcoming  : s.upcoming = opsValue s.bc.total ops + 2 ^ opsBits s.bc.total ops * streamValue .lsbFirst rest
  available : s.available = opsBits s.bc.total ops + 8 * rest.length
  consumed  : s.bc.total + s.available = 8 * s0.port.src.length
  pending   : s.bc.nbits < 8
  source    : s.port.src <:+ s0.port.src

/-- The session has delivered `out` (R303). -/
structure State.Gave (s s0 : State) (out : List Byte) : Prop where
  sink     : s.port.sink = s0.port.sink ++ out
  window   : s.sw.Shows out
  finder   : s.mf = s0.mf
  inTotal  : s.bk.inTotal = s0.bk.inTotal
  blkStart : s.bk.blkStart = s0.bk.blkStart

/-- The decoder has yet to read the bits of `ops`, then `rest`, and has delivered `out`. -/
structure State.Mid (s s0 : State) (rest : List Byte) (ops : List WOp) (out : List Byte) : Prop where
  inDecode : s.InDecode
  sees     : s.Sees s0 rest ops
  gave     : s.Gave s0 out

section
variable {s0 s t u : State} {rest out : List Byte} {xs ys : List WOp}

theorem State.InDecode.reading (h : s.InDecode) : s.bc.Reading := ⟨h.units.channel, h.session.2.1⟩

theorem State.takes_zero (s : State) : s.Takes s 0 :=
  ⟨⟨rfl, .refl _⟩, rfl, rfl, (Nat.div_one _).symm, List.suffix_refl _, id⟩

/-- The bits of the next operations are at hand, and are those operations' number (R65). -/
theorem State.Sees.next (h : s.Sees s0 rest (xs ++ ys)) :
    opsBits s.bc.total xs ≤ s.available ∧ s.upcoming % 2 ^ opsBits s.bc.total xs = opsValue s.bc.total xs := by
  refine ⟨?_, ?_⟩
  · rw [h.available, opsBits_append]
    omega
  · rw [h.upcoming, opsBits_append, opsValue_append, pow_add, Nat.add_assoc, Nat.mul_assoc, ← Nat.mul_add,
      Nat.add_mul_mod_self_left, Nat.mod_eq_of_lt (opsValue_lt _ _)]

theorem State.Sees.take (h : s.Sees s0 rest (xs ++ ys)) (hu : s.Takes u (opsBits s.bc.total xs)) :
    u.Sees s0 rest ys where
  upcoming := by
    rw [hu.upcoming, hu.total, h.upcoming, opsBits_append, opsValue_append, pow_add, Nat.add_assoc, Nat.mul_assoc,
      ← Nat.mul_add, Nat.add_mul_div_left _ _ (Nat.two_pow_pos _), Nat.div_eq_of_lt (opsValue_lt _ _), Nat.zero_add]
  available := by
    have havail := h.available
    have htaken := hu.available
    rw [opsBits_append] at havail
    rw [hu.total]
    omega
  consumed := by rw [hu.total, ← h.consumed, ← hu.available]; omega
  pending := hu.pending h.pending
  source := hu.source.trans h.source

/-- A micro-step that delivers nothing, and reads the next operations. -/
theorem State.Mid.read (h : s.Mid s0 rest (xs ++ ys) out) (hu : s.Takes u (opsBits s.bc.total xs))
    (ht : microStep params s = some (.ok () t)) (hbc : t.bc = u.bc) (hport : t.port = u.port) (hsw : t.sw = u.sw)
    (hmf : t.mf = u.mf) (hbk : t.bk.inTotal = u.bk.inTotal ∧ t.bk.blkStart = u.bk.blkStart) :
    t.Mid s0 rest ys out := by
  obtain ⟨hin, hsees, hsink, hwindow, hfinder, hinTotal, hstart⟩ := h
  obtain ⟨hupcoming, havailable, hconsumed, hpending, hsource⟩ := hsees.take hu
  have hsame := hu.reads.same
  refine ⟨hin.step ht, ⟨?_, ?_, ?_, ?_, ?_⟩, ⟨?_, ?_, ?_, ?_, ?_⟩⟩
  · rwa [State.upcoming, hbc, hport]
  · rwa [State.available, hbc, hport]
  · rwa [State.available, hbc, hport]
  · rwa [hbc]
  · rwa [hport]
  · rw [hport, hsame]
    exact hsink
  · rw [hsw, hu.reads.sw]
    exact hwindow
  · rw [hmf, hu.reads.mf, hfinder]
  · rw [hbk.1, hu.reads.bk, hinTotal]
  · rw [hbk.2, hu.reads.bk, hstart]

/-- A micro-step that delivers a byte, and reads the next operations. -/
theorem State.Mid.readOut (h : s.Mid s0 rest (xs ++ ys) out) (hu : s.Takes u (opsBits s.bc.total xs))
    (ht : microStep params s = some (.ok () t)) {b : Byte} (hbc : t.bc = u.bc) (hport : t.port = (u.out b).port)
    (hsw : t.sw = (u.out b).sw) (hmf : t.mf = u.mf)
    (hbk : t.bk.inTotal = u.bk.inTotal ∧ t.bk.blkStart = u.bk.blkStart) : t.Mid s0 rest ys (out ++ [b]) := by
  obtain ⟨hin, hsees, hsink, hwindow, hfinder, hinTotal, hstart⟩ := h
  obtain ⟨hupcoming, havailable, hconsumed, hpending, hsource⟩ := hsees.take hu
  have hsame := hu.reads.same
  refine ⟨hin.step ht, ⟨?_, ?_, ?_, ?_, ?_⟩, ⟨?_, ?_, ?_, ?_, ?_⟩⟩
  · rw [State.upcoming, hbc, hport]
    exact hupcoming
  · rw [State.available, hbc, hport]
    exact havailable
  · rw [State.available, hbc, hport]
    exact hconsumed
  · rwa [hbc]
  · rw [hport]
    exact hsource
  · rw [hport, ← List.append_assoc, ← hsink, hsame]
    rfl
  · rw [hsw]
    show (u.sw.push b).Shows _
    rw [hu.reads.sw]
    exact hwindow.push hin.units.window.form b
  · rw [hmf, hu.reads.mf, hfinder]
  · rw [hbk.1, hu.reads.bk, hinTotal]
  · rw [hbk.2, hu.reads.bk, hstart]

/-- A micro-step that reads nothing and delivers nothing. -/
theorem State.Mid.stay (h : s.Mid s0 rest ys out) (ht : microStep params s = some (.ok () t)) (hbc : t.bc = s.bc)
    (hport : t.port = s.port) (hsw : t.sw = s.sw) (hmf : t.mf = s.mf)
    (hbk : t.bk.inTotal = s.bk.inTotal ∧ t.bk.blkStart = s.bk.blkStart) : t.Mid s0 rest ys out :=
  State.Mid.read (xs := []) h s.takes_zero ht hbc hport hsw hmf hbk

/-- The next operations of at most 32 bits are one field of the stream (R65). -/
theorem State.Mid.read_ok (h : s.Mid s0 rest (xs ++ ys) out) {n v : Nat} (hbits : opsBits s.bc.total xs = n)
    (hvalue : opsValue s.bc.total xs = v) (hn : n ≤ 32) :
    ∃ u, s.read params n = .ok v u ∧ s.Takes u (opsBits s.bc.total xs) := by
  obtain ⟨havail, hnext⟩ := h.sees.next
  rw [hbits] at havail hnext ⊢
  obtain ⟨u, hread, hu⟩ := State.read_takes h.inDecode.reading hn havail
  exact ⟨u, by rw [hread, hnext, hvalue], hu⟩

end

/-! ### A block's header and its end (R304, R305) -/

section
variable {s0 s : State} {rest out : List Byte} {ops : List WOp} {final : Bool}

theorem State.header_value (t0 : Nat) (final : Bool) {k : Nat} (hk : k < 4) :
    opsBits t0 [putBits final.toNat 1, putBits k 2] = 3 ∧
      opsValue t0 [putBits final.toNat 1, putBits k 2] = final.toNat + 2 * k := by
  have hfinal : final.toNat < 2 := by cases final <;> decide
  refine ⟨rfl, ?_⟩
  simp only [opsValue, putBits, WOp.value, WOp.bitsAt, BitVec.toNat_ofNat]
  omega

/-- The header of a block of a Huffman kind (R305). -/
theorem State.Mid.header {k : Nat} (hk : k = 1 ∨ k = 2)
    (h : s.Mid s0 rest (putBits final.toNat 1 :: putBits k 2 :: ops) out) (hphase : s.bk.phase = .header) :
    ∃ t, s.Runs t ∧ t.Mid s0 rest ops out ∧ t.bk.phase = (if k = 1 then .symbol else .dynHdr) ∧
      t.bk.kind = BitVec.ofNat 2 k ∧ t.bk.final = final := by
  obtain ⟨hbits, hvalue⟩ := State.header_value s.bc.total final (k := k) (by omega)
  obtain ⟨u, hread, hu⟩ := State.Mid.read_ok (xs := [putBits final.toNat 1, putBits k 2]) h hbits hvalue (by decide)
  have hfinal : final.toNat < 2 := by cases final <;> decide
  have hhalf : (final.toNat + 2 * k) / 2 = k := by omega
  have hlow : ((final.toNat + 2 * k) % 2 == 1) = final := by
    rw [show (final.toNat + 2 * k) % 2 = final.toNat by omega]
    cases final <;> rfl
  have hstep : ∃ t, microStep params s = some (.ok () t) ∧ t = { u with
      bk := { u.bk with final := final, kind := BitVec.ofNat 2 k, phase := if k = 1 then .symbol else .dynHdr } } := by
    rw [microStep, hphase]
    dsimp only
    rw [stepHeader, hread, Res.andThen, hhalf, hlow]
    rcases hk with rfl | rfl <;> exact ⟨_, rfl, rfl⟩
  obtain ⟨t, hstep, rfl⟩ := hstep
  exact ⟨_, .step hstep (.refl _), State.Mid.read h hu hstep rfl rfl rfl rfl ⟨rfl, rfl⟩, rfl, rfl, rfl⟩

/-- The end of a block (R304). -/
theorem State.endBlock_keeps (s : State) : s.endBlock.bc = s.bc ∧ s.endBlock.port = s.port ∧ s.endBlock.sw = s.sw ∧
    s.endBlock.mf = s.mf ∧ s.endBlock.bk = { s.bk with phase := if s.bk.final then .done else .header } := by
  rw [State.endBlock]
  split <;> exact ⟨rfl, rfl, rfl, rfl, rfl⟩

/-! ### A stored block (R305 to R309) -/

theorem State.Takes.trans {s t u : State} {m n : Nat} (h : s.Takes t m) (h' : t.Takes u n) : s.Takes u (m + n) where
  reads := h.reads.trans h'.reads
  total := by rw [h'.total, h.total, Nat.add_assoc]
  available := by rw [← h.available, ← h'.available]; omega
  upcoming := by rw [h'.upcoming, h.upcoming, Nat.div_div_eq_div_mul, pow_add]
  source := h'.source.trans h.source
  pending := h'.pending ∘ h.pending

/-- The header of a stored block, and its pad bits (R306). -/
theorem State.Mid.storedHeader (h : s.Mid s0 rest (putBits final.toNat 1 :: putBits 0 2 :: .align :: ops) out)
    (hphase : s.bk.phase = .header) :
    ∃ t, s.Runs t ∧ t.Mid s0 rest ops out ∧ t.bk.phase = .storedLen ∧ t.bk.final = final := by
  obtain ⟨hbits, hvalue⟩ := State.header_value s.bc.total final (k := 0) (by omega)
  obtain ⟨u, hread, hu⟩ := State.Mid.read_ok (xs := [putBits final.toNat 1, putBits 0 2]) h hbits hvalue (by decide)
  have hfinal : final.toNat < 2 := by cases final <;> decide
  have hhalf : (final.toNat + 2 * 0) / 2 = 0 := by omega
  have hlow : ((final.toNat + 2 * 0) % 2 == 1) = final := by cases final <;> rfl
  have hreading : u.bc.Reading := by
    obtain ⟨hwf, hmode⟩ := h.inDecode.reading
    exact ⟨hu.reads.channel.wf hwf hmode, hu.reads.channel.mode.trans hmode⟩
  have hall := hu.trans (State.alignRead_takes hreading (hu.pending h.sees.pending))
  have hcount : opsBits s.bc.total [putBits final.toNat 1, putBits 0 2, .align] =
      opsBits s.bc.total [putBits final.toNat 1, putBits 0 2] + (8 - u.bc.total % 8) % 8 := by
    rw [hu.total, hbits]
    simp only [opsBits, putBits, WOp.bitsAt]
    omega
  rw [← hcount] at hall
  have hstep : microStep params s = some (.ok () { u with
      bc := u.bc.alignRead, bk := { u.bk with final := final, kind := 0, phase := .storedLen } }) := by
    rw [microStep, hphase]
    dsimp only
    rw [stepHeader, hread, Res.andThen, hhalf, hlow]
    rfl
  exact ⟨_, .step hstep (.refl _), State.Mid.read h hall hstep rfl rfl rfl rfl ⟨rfl, rfl⟩, rfl, rfl⟩

/-- The length of a stored block, written twice (R308). -/
theorem State.Mid.storedLen {n : Nat} (hn : n < 65536)
    (h : s.Mid s0 rest (putBits n 16 :: putBits (n ^^^ 0xFFFF) 16 :: ops) out) (hphase : s.bk.phase = .storedLen) :
    ∃ t, s.Runs t ∧ t.Mid s0 rest ops out ∧ t.bk.phase = .storedCopy ∧ t.bk.storedRem = n ∧
      t.bk.final = s.bk.final := by
  have hvalue : opsValue s.bc.total [putBits n 16, putBits (n ^^^ 0xFFFF) 16] = n + 65536 * (65535 - n) := by
    rw [xor_65535 hn]
    simp only [opsValue, putBits, WOp.value, WOp.bitsAt, BitVec.toNat_ofNat]
    omega
  obtain ⟨u, hread, hu⟩ := State.Mid.read_ok (n := 32) (xs := [putBits n 16, putBits (n ^^^ 0xFFFF) 16]) h rfl hvalue
    (by decide)
  have hhigh : (n + 65536 * (65535 - n)) / 2 ^ 16 = 65535 - n := by omega
  have hlow : (n + 65536 * (65535 - n)) % 2 ^ 16 = n := by omega
  have hstep : microStep params s = some (.ok ()
      { u with bk := { u.bk with storedRem := n, phase := .storedCopy } }) := by
    rw [microStep, hphase]
    dsimp only
    rw [stepStoredLen, hread, Res.andThen, hhigh, hlow, if_neg (by rw [xor_65535 hn]; exact fun h => h rfl)]
    rfl
  have hfinal : u.bk.final = s.bk.final := congrArg Bk.final hu.reads.bk
  exact ⟨_, .step hstep (.refl _), State.Mid.read h hu hstep rfl rfl rfl rfl ⟨rfl, rfl⟩, rfl, rfl, hfinal⟩

/-- The bytes of a stored block (R309). -/
theorem State.Mid.storedCopy : ∀ (piece : List Byte) {s : State} {out : List Byte},
    s.Mid s0 rest (piece.map (fun b => putBits b.toNat 8) ++ ops) out → s.bk.phase = .storedCopy →
    s.bk.storedRem = piece.length → ∃ t, s.Runs t ∧ t.Mid s0 rest ops (out ++ piece) ∧
      t.bk.phase = if s.bk.final then .done else .header
  | [], s, out, h, hphase, hrem => by
    obtain ⟨hbc, hport, hsw, hmf, hbk⟩ := s.endBlock_keeps
    have hstep : microStep params s = some (.ok () s.endBlock) := by
      rw [microStep, hphase]
      dsimp only
      rw [stepStoredCopy, if_pos (show s.bk.storedRem = 0 from hrem)]
    rw [List.append_nil]
    exact ⟨_, .step hstep (.refl _), State.Mid.stay h hstep hbc hport hsw hmf (by rw [hbk]; exact ⟨rfl, rfl⟩),
      by rw [hbk]⟩
  | b :: piece, s, out, h, hphase, hrem => by
    have hvalue : opsValue s.bc.total [putBits b.toNat 8] = b.toNat := by
      have hb := b.isLt
      simp only [opsValue, putBits, WOp.value, BitVec.toNat_ofNat]
      omega
    obtain ⟨u, hread, hu⟩ := State.Mid.read_ok (n := 8) (xs := [putBits b.toNat 8]) h rfl hvalue (by decide)
    have hbyte : BitVec.ofNat 8 b.toNat = b := by rw [BitVec.ofNat_toNat, BitVec.setWidth_eq]
    have hstep : microStep params s = some (.ok ()
        { u.out b with bk := { (u.out b).bk with storedRem := (u.out b).bk.storedRem - 1 } }) := by
      rw [microStep, hphase]
      dsimp only
      rw [stepStoredCopy, if_neg (by rw [hrem]; simp), hread, Res.andThen, hbyte]
    have hbk := hu.reads.bk
    have hphase' : u.bk.phase = .storedCopy := by rw [hbk, hphase]
    have hrem' : u.bk.storedRem - 1 = piece.length := by rw [hbk, hrem, List.length_cons, Nat.add_sub_cancel]
    have hnext := State.Mid.readOut (xs := [putBits b.toNat 8]) (u := u) (b := b) h hu hstep rfl rfl rfl rfl ⟨rfl, rfl⟩
    obtain ⟨t, hruns, hmid, hend⟩ := State.Mid.storedCopy piece (s := { u.out b with
      bk := { (u.out b).bk with storedRem := (u.out b).bk.storedRem - 1 } }) hnext hphase' hrem'
    rw [List.append_assoc] at hmid
    have hfinal : u.bk.final = s.bk.final := congrArg Bk.final hbk
    exact ⟨t, .step hstep hruns, hmid, by rw [hend, ← hfinal]; rfl⟩

/-- A stored block of less than 64 KiB (R273). -/
theorem State.Mid.storedBlock {piece : List Byte} (hpiece : piece.length < 65536)
    (h : s.Mid s0 rest (storedBlock final piece ++ ops) out) (hphase : s.bk.phase = .header) :
    ∃ t, s.Runs t ∧ t.Mid s0 rest ops (out ++ piece) ∧ t.bk.phase = if final then .done else .header := by
  obtain ⟨t, hst, ht, hlen, htfinal⟩ := State.Mid.storedHeader h hphase
  obtain ⟨u, htu, hu, hcopy, hrem, hufinal⟩ := State.Mid.storedLen hpiece ht hlen
  obtain ⟨v, huv, hv, hend⟩ := State.Mid.storedCopy piece hu hcopy hrem
  rw [hufinal, htfinal] at hend
  exact ⟨v, hst.trans (htu.trans huv), hv, hend⟩

/-- A block of the stored kind, cut into pieces (R273). -/
theorem State.Mid.storedBlocks : ∀ (k : Nat) {raw : List Byte} {s : State} {out : List Byte},
    raw.length ≤ 65535 * (k + 1) → s.Mid s0 rest (storedBlocks final (k + 1) raw ++ ops) out → s.bk.phase = .header →
    ∃ t, s.Runs t ∧ t.Mid s0 rest ops (out ++ raw) ∧ t.bk.phase = if final then .done else .header
  | 0, raw, s, out, hraw, h, hphase => State.Mid.storedBlock (by omega) h hphase
  | k + 1, raw, s, out, hraw, h, hphase => by
    rw [Machine.storedBlocks, List.append_assoc] at h
    obtain ⟨t, hst, ht, hheader⟩ := State.Mid.storedBlock
      (by rw [storedMax]; exact Nat.lt_of_le_of_lt (List.length_take_le _ _) (by decide)) h hphase
    obtain ⟨u, htu, hu, hend⟩ := State.Mid.storedBlocks k (by rw [storedMax, List.length_drop]; omega) ht hheader
    rw [List.append_assoc, List.take_append_drop] at hu
    exact ⟨u, hst.trans htu, hu, hend⟩

end

end Sys2Proof.Machine
end

section

namespace Sys2Proof.Machine

/-! ### Decoding a symbol (R104, R302) -/

theorem State.table_congr {s t : State} (h : t.hc = s.hc) (k : Nat) : t.table k = s.table k := by
  unfold State.table
  rw [h]

theorem Table.Inverts.len_le {t enc : Table} (h : t.Inverts enc) {v : Nat} (hv : enc.len.getD v 0 ≠ 0) :
    enc.len.getD v 0 ≤ 15 := by
  obtain ⟨hn, -, -, hlimit, -⟩ := h.wf h.valid
  obtain ⟨hlt, hcode⟩ := h.codes v hv
  have hlen : t.len.getD v 0 = enc.len.getD v 0 := congrArg Prod.snd hcode
  rw [hn] at hlt
  rw [← hlen, List.getD_eq_getElem _ _ hlt]
  exact Nat.le_trans (h.complete.limit _ (List.getElem_mem hlt)) hlimit

theorem putCode_value {enc : Table} {v : Nat} (t0 : Nat) (hlen : enc.len.getD v 0 ≤ 15) :
    opsBits t0 [putCode enc v] = enc.len.getD v 0 ∧
      opsValue t0 [putCode enc v] = revBits (enc.len.getD v 0) (enc.code.getD v 0) := by
  have hlt := revBits_lt (enc.len.getD v 0) (enc.code.getD v 0)
  have hpow : 2 ^ enc.len.getD v 0 ≤ 2 ^ 32 := Nat.pow_le_pow_right (by decide) (by omega)
  refine ⟨rfl, ?_⟩
  simp only [opsValue, putCode, putBits, WOp.value, Table.codeOf, BitVec.toNat_ofNat, Nat.mul_zero, Nat.add_zero]
  rw [Nat.mod_eq_of_lt (Nat.lt_of_lt_of_le hlt hpow), Nat.mod_eq_of_lt hlt]

theorem putBits_value {v n : Nat} (t0 : Nat) (hv : v < 2 ^ n) (hn : n ≤ 32) :
    opsBits t0 [putBits v n] = n ∧ opsValue t0 [putBits v n] = v := by
  have hpow : 2 ^ n ≤ 2 ^ 32 := Nat.pow_le_pow_right (by decide) hn
  refine ⟨rfl, ?_⟩
  simp only [opsValue, putBits, WOp.value, BitVec.toNat_ofNat, Nat.mul_zero, Nat.add_zero]
  rw [Nat.mod_eq_of_lt (Nat.lt_of_lt_of_le hv hpow), Nat.mod_eq_of_lt hv]

/-- A block of a Huffman kind is being decoded (R302). -/
structure State.InBlock (s : State) (final : Bool) (ll d : Table) : Prop where
  final : s.bk.final = final
  lit   : (s.table s.litSlot).Inverts ll
  dist  : (s.table s.distSlot).Inverts d

theorem State.InBlock.congr {s t : State} {final : Bool} {ll d : Table} (h : s.InBlock final ll d) (hhc : t.hc = s.hc)
    (hkind : t.bk.kind = s.bk.kind) (hfinal : t.bk.final = s.bk.final) : t.InBlock final ll d := by
  obtain ⟨hf, hlit, hdist⟩ := h
  refine ⟨hfinal.trans hf, ?_, ?_⟩
  · rwa [State.table_congr hhc, State.litSlot, hkind]
  · rwa [State.table_congr hhc, State.distSlot, hkind]

/-- The decoder is in a phase of such a block, in the middle of a stream. -/
structure State.At (s s0 : State) (rest : List Byte) (final : Bool) (ll d : Table) (phase : Phase) (ops : List WOp)
    (out : List Byte) : Prop where
  mid   : s.Mid s0 rest ops out
  block : s.InBlock final ll d
  phase : s.bk.phase = phase

section
variable {s0 s t u : State} {rest out : List Byte} {final : Bool} {ll d : Table} {ops : List WOp}

/-- A symbol whose code comes next is decoded (R214). -/
theorem State.Mid.decode_ok {enc : Table} {k v : Nat} (h : s.Mid s0 rest (putCode enc v :: ops) out)
    (ht : (s.table k).Inverts enc) (hv : enc.len.getD v 0 ≠ 0) :
    ∃ u, s.decodeSym params k = .ok v u ∧ s.Takes u (opsBits s.bc.total [putCode enc v]) := by
  obtain ⟨hbits, hvalue⟩ := putCode_value s.bc.total (ht.len_le hv)
  obtain ⟨havail, hnext⟩ := State.Sees.next (xs := [putCode enc v]) h.sees
  rw [hvalue] at hnext
  rw [hbits] at havail hnext ⊢
  exact State.decodeSym_takes h.inDecode.reading ht hv hnext havail

/-- A literal (R320). -/
theorem State.At.literal {b : Byte} (h : s.At s0 rest final ll d .symbol (putCode ll b.toNat :: ops) out)
    (hv : ll.len.getD b.toNat 0 ≠ 0) :
    ∃ t, s.Runs t ∧ t.At s0 rest final ll d .symbol ops (out ++ [b]) := by
  obtain ⟨hmid, hblock, hphase⟩ := h
  obtain ⟨u, hdecode, hu⟩ := hmid.decode_ok hblock.lit hv
  have hb := b.isLt
  have hbyte : BitVec.ofNat 8 b.toNat = b := by rw [BitVec.ofNat_toNat, BitVec.setWidth_eq]
  have hstep : microStep params s = some (.ok () (u.out b)) := by
    rw [microStep, hphase]
    dsimp only
    rw [stepSymbol, hdecode, Res.andThen, if_pos hb, hbyte]
  have hbk := hu.reads.bk
  exact ⟨_, .step hstep (.refl _), State.Mid.readOut (xs := [putCode ll b.toNat]) hmid hu hstep rfl rfl rfl rfl ⟨rfl, rfl⟩,
    hblock.congr hu.reads.hc (congrArg Bk.kind hbk :) (congrArg Bk.final hbk :), (congrArg Bk.phase hbk :).trans hphase⟩

/-- The end-of-block symbol (R320). -/
theorem State.At.endOfBlock (h : s.At s0 rest final ll d .symbol (putCode ll 256 :: ops) out)
    (hv : ll.len.getD 256 0 ≠ 0) :
    ∃ t, s.Runs t ∧ t.Mid s0 rest ops out ∧ t.bk.phase = if final then .done else .header := by
  obtain ⟨hmid, hblock, hphase⟩ := h
  obtain ⟨u, hdecode, hu⟩ := hmid.decode_ok hblock.lit hv
  have hstep : microStep params s = some (.ok () u.endBlock) := by
    rw [microStep, hphase]
    dsimp only
    rw [stepSymbol, hdecode, Res.andThen, if_neg (by decide), if_pos rfl]
  obtain ⟨hbc, hport, hsw, hmf, hbk⟩ := u.endBlock_keeps
  refine ⟨_, .step hstep (.refl _), State.Mid.read (xs := [putCode ll 256]) hmid hu hstep hbc hport hsw hmf
    (by rw [hbk]; exact ⟨rfl, rfl⟩), ?_⟩
  rw [hbk, hu.reads.bk, hblock.final]

/-- A length symbol (R321). -/
theorem State.At.lengthSymbol {i : Nat} (hi : i ≤ 28)
    (h : s.At s0 rest final ll d .symbol (putCode ll (257 + i) :: ops) out) (hv : ll.len.getD (257 + i) 0 ≠ 0) :
    ∃ t, s.Runs t ∧ t.At s0 rest final ll d .lenExtra ops out ∧ t.bk.lenSym = 257 + i := by
  obtain ⟨hmid, hblock, hphase⟩ := h
  obtain ⟨u, hdecode, hu⟩ := hmid.decode_ok hblock.lit hv
  have hstep : microStep params s = some (.ok () { u with bk := { u.bk with lenSym := 257 + i, phase := .lenExtra } }) := by
    rw [microStep, hphase]
    dsimp only
    rw [stepSymbol, hdecode, Res.andThen, if_neg (by omega), if_neg (by omega), if_pos (by omega)]
    rfl
  have hbk := hu.reads.bk
  exact ⟨_, .step hstep (.refl _), ⟨State.Mid.read (xs := [putCode ll (257 + i)]) hmid hu hstep rfl rfl rfl rfl ⟨rfl, rfl⟩,
    hblock.congr hu.reads.hc (congrArg Bk.kind hbk :) (congrArg Bk.final hbk :), rfl⟩, rfl⟩

/-- A length's extra bits (R322). -/
theorem State.At.lengthExtra {e : Nat} (he : e < 2 ^ lextra (s.bk.lenSym - 257))
    (h : s.At s0 rest final ll d .lenExtra (putBits e (lextra (s.bk.lenSym - 257)) :: ops) out) :
    ∃ t, s.Runs t ∧ t.At s0 rest final ll d .distSym ops out ∧ t.bk.length = lbase (s.bk.lenSym - 257) + e := by
  obtain ⟨hmid, hblock, hphase⟩ := h
  have hsize : lextra (s.bk.lenSym - 257) ≤ 32 := Nat.le_trans (lextra_le _) (by decide)
  obtain ⟨hbits, hvalue⟩ := putBits_value s.bc.total he hsize
  obtain ⟨u, hread, hu⟩ := State.Mid.read_ok (xs := [putBits e (lextra (s.bk.lenSym - 257))]) hmid hbits hvalue hsize
  have hbk := hu.reads.bk
  have hstep : microStep params s = some (.ok ()
      { u with bk := { u.bk with length := lbase (s.bk.lenSym - 257) + e, phase := .distSym } }) := by
    rw [microStep, hphase]
    dsimp only
    rw [stepLenExtra, hread, Res.andThen, hbk]
    rfl
  exact ⟨_, .step hstep (.refl _), ⟨State.Mid.read (xs := [putBits e (lextra (s.bk.lenSym - 257))]) hmid hu hstep rfl rfl
    rfl rfl ⟨rfl, rfl⟩, hblock.congr hu.reads.hc (congrArg Bk.kind hbk :) (congrArg Bk.final hbk :), rfl⟩, rfl⟩

/-- A distance symbol (R323, R324). -/
theorem State.At.distanceSymbol {j : Nat} (hj : j < 30)
    (h : s.At s0 rest final ll d .distSym (putCode d j :: ops) out) (hv : d.len.getD j 0 ≠ 0) :
    ∃ t, s.Runs t ∧ t.At s0 rest final ll d .distExtra ops out ∧ t.bk.distSym = j ∧ t.bk.length = s.bk.length := by
  obtain ⟨hmid, hblock, hphase⟩ := h
  obtain ⟨u, hdecode, hu⟩ := hmid.decode_ok hblock.dist hv
  have hstep : microStep params s = some (.ok () { u with bk := { u.bk with distSym := j, phase := .distExtra } }) := by
    rw [microStep, hphase]
    dsimp only
    rw [stepDistSym, hdecode, Res.andThen, if_neg (by omega)]
    rfl
  have hbk := hu.reads.bk
  exact ⟨_, .step hstep (.refl _), ⟨State.Mid.read (xs := [putCode d j]) hmid hu hstep rfl rfl rfl rfl ⟨rfl, rfl⟩,
    hblock.congr hu.reads.hc (congrArg Bk.kind hbk :) (congrArg Bk.final hbk :), rfl⟩, rfl, (congrArg Bk.length hbk :)⟩

/-- A distance's extra bits (R325, R326). -/
theorem State.At.distanceExtra {e : Nat} (he : e < 2 ^ dextra s.bk.distSym)
    (hreach : dbase s.bk.distSym + e ≤ out.length) (hcap : dbase s.bk.distSym + e ≤ 32768)
    (h : s.At s0 rest final ll d .distExtra (putBits e (dextra s.bk.distSym) :: ops) out) :
    ∃ t, s.Runs t ∧ t.At s0 rest final ll d .copy ops out ∧ t.bk.dist = dbase s.bk.distSym + e ∧
      t.bk.copyRem = s.bk.length := by
  obtain ⟨hmid, hblock, hphase⟩ := h
  have hsize : dextra s.bk.distSym ≤ 32 := Nat.le_trans (dextra_le _) (by decide)
  obtain ⟨hbits, hvalue⟩ := putBits_value s.bc.total he hsize
  obtain ⟨u, hread, hu⟩ := State.Mid.read_ok (xs := [putBits e (dextra s.bk.distSym)]) hmid hbits hvalue hsize
  have hbk := hu.reads.bk
  have hcursor : u.sw.cursor = out.length := by rw [hu.reads.sw, hmid.gave.window.cursor]
  have hstep : microStep params s = some (.ok () { u with
      bk := { u.bk with dist := dbase s.bk.distSym + e, copyRem := u.bk.length, phase := .copy } }) := by
    rw [microStep, hphase]
    dsimp only
    rw [stepDistExtra, hread, Res.andThen]
    dsimp only
    rw [hbk, if_neg (by rw [hcursor, windowCap]; omega)]
    rfl
  exact ⟨_, .step hstep (.refl _), ⟨State.Mid.read (xs := [putBits e (dextra s.bk.distSym)]) hmid hu hstep rfl rfl
    rfl rfl ⟨rfl, rfl⟩, hblock.congr hu.reads.hc (congrArg Bk.kind hbk :) (congrArg Bk.final hbk :), rfl⟩, rfl,
    (congrArg Bk.length hbk :)⟩

/-- The first `j` bytes of the periodic extension of `base` with period `distance` (R175). -/
def periodic (base : List Byte) (distance j : Nat) : List Byte :=
  (List.range j).map fun i => base.getD (base.length - distance + i % distance) 0

theorem periodic_succ (base : List Byte) (distance j : Nat) : periodic base distance (j + 1) =
    periodic base distance j ++ [base.getD (base.length - distance + j % distance) 0] := by
  rw [periodic, List.range_succ, List.map_append]
  rfl

theorem length_periodic (base : List Byte) (distance j : Nat) : (periodic base distance j).length = j := by
  rw [periodic, List.length_map, List.length_range]

/-- The byte `distance` behind the end continues the extension (R175). -/
theorem periodic_next {base : List Byte} {distance : Nat} (h1 : 1 ≤ distance) (hbase : distance ≤ base.length) (j : Nat) :
    (base ++ periodic base distance j).getD ((base ++ periodic base distance j).length - distance) 0 =
      base.getD (base.length - distance + j % distance) 0 := by
  rw [List.length_append, length_periodic]
  rcases Nat.lt_or_ge j distance with hj | hj
  · rw [Nat.mod_eq_of_lt hj, List.getD_append _ _ _ _ (by omega),
      show base.length + j - distance = base.length - distance + j by omega]
  · rw [List.getD_append_right _ _ _ _ (by omega), show base.length + j - distance - base.length = j - distance by omega,
      periodic, List.getD_eq_getElem _ _ (by rw [List.length_map, List.length_range]; omega), List.getElem_map,
      List.getElem_range, Nat.mod_eq_sub_mod hj]

/-- The copy of a match (R327). -/
theorem State.At.copy {base : List Byte} {distance : Nat} (h1 : 1 ≤ distance) (hbase : distance ≤ base.length)
    (hcap : distance ≤ 32768) : ∀ (k j : Nat) {s : State},
    s.At s0 rest final ll d .copy ops (base ++ periodic base distance j) → s.bk.dist = distance → s.bk.copyRem = k →
    ∃ t, s.Runs t ∧ t.At s0 rest final ll d .symbol ops (base ++ periodic base distance (j + k))
  | 0, j, s, h, hdist, hrem => by
    obtain ⟨hmid, hblock, hphase⟩ := h
    have hstep : microStep params s = some (.ok () (s.goto .symbol)) := by
      rw [microStep, hphase]
      dsimp only
      rw [stepCopy, if_pos hrem]
    exact ⟨_, .step hstep (.refl _), State.Mid.stay hmid hstep rfl rfl rfl rfl ⟨rfl, rfl⟩, hblock.congr rfl rfl rfl, rfl⟩
  | k + 1, j, s, h, hdist, hrem => by
    obtain ⟨hmid, hblock, hphase⟩ := h
    have hwindow := hmid.gave.window.get h1 (by rw [List.length_append]; omega)
      (by rw [hmid.inDecode.session.2.2.2.2.1]; exact hcap)
    rw [periodic_next h1 hbase] at hwindow
    generalize hb : base.getD (base.length - distance + j % distance) 0 = b at hwindow
    have hstep : microStep params s = some (.ok ()
        { s.out b with bk := { (s.out b).bk with copyRem := (s.out b).bk.copyRem - 1 } }) := by
      rw [microStep, hphase]
      dsimp only
      rw [stepCopy, if_neg (by omega), hdist, hwindow]
    have hnext := State.Mid.readOut (xs := []) (u := s) (b := b) hmid s.takes_zero hstep rfl rfl rfl rfl ⟨rfl, rfl⟩
    rw [List.append_assoc, ← hb, ← periodic_succ] at hnext
    obtain ⟨t, hruns, ht⟩ := State.At.copy h1 hbase hcap k (j + 1) ⟨hnext, hblock.congr rfl rfl rfl, hphase⟩ hdist
      (by
        show s.bk.copyRem - 1 = k
        omega)
    rw [Nat.add_right_comm] at ht
    exact ⟨t, .step (hb ▸ hstep) hruns, ht⟩

/-- The symbols of a token are used in the tables (R112, R209). -/
structure Token.Coded (t : Token) (ll d : Table) : Prop where
  lit  : ll.len.getD t.litSymbol 0 ≠ 0
  dist : ∀ j, t.distSymbol = some j → d.len.getD j 0 ≠ 0

/-- A match (R321 to R327). -/
theorem State.At.matchToken {length distance : Nat} (hbounds : tokenInBounds out.length (.copy length distance) = true)
    (hcoded : (Token.copy length distance).Coded ll d)
    (h : s.At s0 rest final ll d .symbol (putToken ll d (.copy length distance) ++ ops) out) :
    ∃ t, s.Runs t ∧ t.At s0 rest final ll d .symbol ops (replayToken out (.copy length distance)) := by
  simp only [tokenInBounds, Bool.and_eq_true, decide_eq_true_eq] at hbounds
  obtain ⟨⟨⟨⟨h3, h258⟩, h1⟩, hmax⟩, hback⟩ := hbounds
  obtain ⟨hlit, hdist⟩ := hcoded
  obtain ⟨hi, hlbase, hlextra⟩ := lsym_bucket h3 h258
  obtain ⟨hj, hdbase, hdextra⟩ := dsym_bucket h1 hmax
  obtain ⟨t, hst, ht, hsym⟩ := State.At.lengthSymbol hi h hlit
  have hbucket : t.bk.lenSym - 257 = lsym length := by rw [hsym, Nat.add_sub_cancel_left]
  obtain ⟨u, htu, hu, hulen⟩ := State.At.lengthExtra (e := length - lbase (lsym length)) (by rwa [hbucket])
    (by rwa [hbucket])
  rw [hbucket, Nat.add_sub_cancel' hlbase] at hulen
  obtain ⟨v, huv, hv, hvsym, hvlen⟩ := State.At.distanceSymbol hj hu (hdist _ rfl)
  have htotal : dbase v.bk.distSym + (distance - dbase (dsym distance)) = distance := by
    rw [hvsym, Nat.add_sub_cancel' hdbase]
  obtain ⟨w, hvw, hw, hwdist, hwrem⟩ := State.At.distanceExtra (e := distance - dbase (dsym distance))
    (by rwa [hvsym]) (by rwa [htotal]) (by rwa [htotal]) (by rwa [hvsym])
  rw [htotal] at hwdist
  rw [hvlen, hulen] at hwrem
  obtain ⟨x, hwx, hx⟩ := State.At.copy (base := out) h1 hback hmax length 0
    (by rw [periodic, List.range_zero, List.map_nil, List.append_nil]; exact hw) hwdist hwrem
  rw [Nat.zero_add] at hx
  exact ⟨x, hst.trans (htu.trans (huv.trans (hvw.trans hwx))), hx⟩

/-- The tokens of a block (R276, R320). -/
theorem State.At.tokens : ∀ (tokens : List Token) {s : State} {out : List Byte},
    tokensInBounds out.length tokens = true → (∀ t ∈ tokens, t.Coded ll d) →
    s.At s0 rest final ll d .symbol ((tokens.map (putToken ll d)).flatten ++ ops) out →
    ∃ t, s.Runs t ∧ t.At s0 rest final ll d .symbol ops (replay out tokens)
  | [], s, out, _, _, h => ⟨s, .refl s, h⟩
  | token :: tokens, s, out, hbounds, hcoded, h => by
    rw [tokensInBounds, Bool.and_eq_true] at hbounds
    rw [List.map_cons, List.flatten_cons, List.append_assoc] at h
    have hfirst := hcoded token List.mem_cons_self
    obtain ⟨t, hst, ht⟩ : ∃ t, s.Runs t ∧ t.At s0 rest final ll d .symbol
        ((tokens.map (putToken ll d)).flatten ++ ops) (replayToken out token) := by
      cases token with
      | lit b => exact State.At.literal h hfirst.lit
      | copy length distance => exact State.At.matchToken hbounds.1 hfirst h
    obtain ⟨u, htu, hu⟩ := State.At.tokens tokens (by rw [length_replayToken]; exact hbounds.2)
      (fun x hx => hcoded x (List.mem_cons_of_mem _ hx)) ht
    exact ⟨u, hst.trans htu, hu⟩

/-- The tokens of a block and its end (R276, R320). -/
theorem State.At.putTokens {tokens : List Token} (hbounds : tokensInBounds out.length tokens = true)
    (hcoded : ∀ t ∈ tokens, t.Coded ll d) (hend : ll.len.getD 256 0 ≠ 0)
    (h : s.At s0 rest final ll d .symbol (Machine.putTokens ll d tokens ++ ops) out) :
    ∃ t, s.Runs t ∧ t.Mid s0 rest ops (replay out tokens) ∧ t.bk.phase = if final then .done else .header := by
  rw [Machine.putTokens, List.append_assoc] at h
  obtain ⟨t, hst, ht⟩ := State.At.tokens tokens hbounds hcoded h
  obtain ⟨u, htu, hu⟩ := ht.endOfBlock hend
  exact ⟨u, hst.trans htu, hu⟩

end

end Sys2Proof.Machine
end

section

namespace Sys2Proof.Machine

/-! ### Tables rebuilt from lengths without the zeros at their end (R206, R265) -/

/-- A table of the lengths up to the last used one reads the codes of the whole table. -/
theorem Table.inverts_take {limit n : Nat} {len : List Nat} (h : GoodLens limit len) (h1 : 1 ≤ limit) (h15 : limit ≤ 15)
    (hn : lastUsed len ≤ n) (hsize : len.length ≤ 288) :
    (Table.ofLens limit (len.take n)).Inverts (Table.ofLens limit len) where
  valid := rfl
  wf := (h.take hn).wf h1 h15 (Nat.le_trans (by rw [List.length_take]; exact Nat.min_le_right _ _) hsize)
  complete := (h.take hn).complete h1 h15
  codes := fun v hv => by
    obtain ⟨hvn, hvlen, hget, hcode⟩ := canonicalCode_take hn hv
    have hshort : v < (len.take n).length := by
      rw [List.length_take]
      omega
    have hcodes := (h.take hn).complete h1 h15
    have hfull := h.complete h1 h15
    refine ⟨hshort, Prod.ext ?_ hget⟩
    show (Table.ofLens limit (len.take n)).code.getD v 0 = (Table.ofLens limit len).code.getD v 0
    rw [hcodes.codes, hfull.codes]
    show ((List.range (len.take n).length).map (canonicalCode (len.take n))).getD v 0 =
      ((List.range len.length).map (canonicalCode len)).getD v 0
    rw [List.getD_eq_getElem _ _ (by simpa using ⟨hvn, hvlen⟩), List.getD_eq_getElem _ _ (by simpa using hvlen)]
    simpa using hcode

theorem Table.inverts_self {limit : Nat} {len : List Nat} (h : GoodLens limit len) (h1 : 1 ≤ limit) (h15 : limit ≤ 15)
    (hsize : len.length ≤ 288) : (Table.ofLens limit len).Inverts (Table.ofLens limit len) := by
  have hall := Table.inverts_take h h1 h15 (lastUsed_le len) hsize
  rwa [List.take_length] at hall

theorem fixedLit_inverts : fixedLit.Inverts fixedLit :=
  Table.inverts_self fixedLit_good (by decide) (by decide) (Nat.le_of_eq fixedLit_n)

theorem fixedDist_inverts : fixedDist.Inverts fixedDist :=
  Table.inverts_self fixedDist_good (by decide) (by decide) (by decide)

/-- The construction from good lengths makes their table (R206). -/
theorem buildLen_of_good {limit : Nat} {len : List Nat} (h : GoodLens limit len) :
    buildLen limit len = .table (Table.ofLens limit len) := by rw [buildLen_of_le h.le, if_pos h.kraft]

/-! ### The symbols of tokens in bounds (R110, R111) -/

theorem Token.litSymbol_lt {t : Token} {before : Nat} (h : tokenInBounds before t = true) : t.litSymbol < 286 := by
  cases t with
  | lit b =>
    have hb := b.isLt
    show b.toNat < 286
    omega
  | copy length distance =>
    simp only [tokenInBounds, Bool.and_eq_true, decide_eq_true_eq] at h
    have hi := (lsym_bucket (length := length) (by omega) (by omega)).1
    show 257 + lsym length < 286
    omega

theorem Token.distSymbol_lt {t : Token} {before j : Nat} (h : tokenInBounds before t = true)
    (hj : t.distSymbol = some j) : j < 30 := by
  cases t with
  | lit b => cases hj
  | copy length distance =>
    simp only [tokenInBounds, Bool.and_eq_true, decide_eq_true_eq] at h
    cases hj
    exact (dsym_bucket (by omega) (by omega)).1

theorem tokensInBounds_mem : ∀ {tokens : List Token} {p : Nat}, tokensInBounds p tokens = true →
    ∀ t ∈ tokens, ∃ before, tokenInBounds before t = true
  | _ :: _, p, h, t, ht => by
    rw [tokensInBounds, Bool.and_eq_true] at h
    rcases List.mem_cons.mp ht with rfl | ht
    · exact ⟨p, h.1⟩
    · exact tokensInBounds_mem h.2 t ht

theorem coded_fixed {tokens : List Token} {p : Nat} (h : tokensInBounds p tokens = true) :
    ∀ t ∈ tokens, t.Coded fixedLit fixedDist := by
  intro t ht
  obtain ⟨before, hbounds⟩ := tokensInBounds_mem h t ht
  refine ⟨?_, fun j hj => ?_⟩
  · have hlit := Token.litSymbol_lt hbounds
    have hlen : fixedLit.len.getD t.litSymbol 0 = (fixedLit.codeOf t.litSymbol).2 := rfl
    rw [hlen, fixedLit_codeOf (by omega)]
    split_ifs <;> exact Nat.succ_ne_zero _
  · have hdist := Token.distSymbol_lt hbounds hj
    have hlen : fixedDist.len.getD j 0 = (fixedDist.codeOf j).2 := rfl
    rw [hlen, fixedDist_codeOf (by omega)]
    exact Nat.succ_ne_zero _

theorem PlanFor.coded {tokens : List Token} {plan : DynPlan} (h : PlanFor tokens plan) {p : Nat}
    (hbounds : tokensInBounds p tokens = true) : ∀ t ∈ tokens, t.Coded plan.ll plan.d := by
  intro t ht
  obtain ⟨before, hbounds⟩ := tokensInBounds_mem hbounds t ht
  exact ⟨h.ll.codes _ (List.mem_append_left _ (List.mem_map_of_mem ht)) (Token.litSymbol_lt hbounds),
    fun j hj => h.d.codes j (List.mem_filterMap.mpr ⟨t, ht, hj⟩) (Token.distSymbol_lt hbounds hj)⟩

/-! ### Staged cells (R35) -/

theorem Mem.get_setList {α : Type} [DecidableEq α] (free : Nat → Nat → α) : ∀ (l : List α) {m : Mem α} (a b : Nat),
    m.wf = true → (m.setList a l).get free b = if a ≤ b then l.getD (b - a) (m.get free b) else m.get free b
  | [], m, a, b, _ => by simp [Mem.setList]
  | v :: rest, m, a, b, hm => by
    rw [Mem.setList, Mem.get_setList free rest (a + 1) b (Mem.wf_set a v hm)]
    rcases Nat.lt_trichotomy a b with hab | rfl | hab
    · obtain ⟨k, rfl⟩ := Nat.exists_eq_add_of_lt hab
      rw [if_pos (by omega), if_pos (by omega), Mem.get_set_other free v (by omega) hm,
        show a + k + 1 - (a + 1) = k by omega, show a + k + 1 - a = k + 1 by omega, List.getD_cons_succ]
    · rw [if_neg (by omega), if_pos (Nat.le_refl a), Nat.sub_self, List.getD_cons_zero, Mem.get_set_same free a v hm]
    · rw [if_neg (by omega), if_neg (by omega), Mem.get_set_other free v (by omega) hm]

theorem State.staged_stage {s : State} (hs : s.hc.stg.wf = true) {l : List Nat} (hl : ∀ x ∈ l, x < 2 ^ 32) (a b : Nat) :
    (s.stage a l).staged b = if a ≤ b then l.getD (b - a) (s.staged b) else s.staged b := by
  rw [State.staged, State.stage_hc, Mem.get_setList Config.freeWord _ a b hs]
  split
  · rcases Nat.lt_or_ge (b - a) l.length with hlt | hge
    · have hx := hl _ (List.getElem_mem hlt)
      rw [List.getD_eq_getElem _ _ (by rwa [List.length_map]), List.getElem_map, List.getD_eq_getElem _ _ hlt,
        BitVec.toNat_ofNat, Nat.mod_eq_of_lt hx]
    · rw [List.getD_eq_default _ _ (by rwa [List.length_map]), List.getD_eq_default _ _ hge]
      rfl
  · rfl

/-- The array of a construction, cell by cell (R192). -/
theorem State.stagedArray_eq {s : State} {l : List Nat} (h : ∀ j, j < l.length → s.staged j = l.getD j 0) :
    s.stagedArray l.length = l := by
  refine List.ext_getElem (by simp [State.stagedArray]) fun j _ hj => ?_
  simp [State.stagedArray, h j hj, hj]

end Sys2Proof.Machine
end

section

namespace Sys2Proof.Machine

section
variable {s0 s : State} {rest out : List Byte} {final : Bool} {ops : List WOp} {tokens : List Token} {plan : DynPlan}

/-! ### A block of the fixed kind (R274, R307) -/

theorem State.Mid.fixedBlock (hbounds : tokensInBounds out.length tokens = true)
    (h : s.Mid s0 rest (emitFixed tokens final ++ ops) out) (hphase : s.bk.phase = .header) :
    ∃ t, s.Runs t ∧ t.Mid s0 rest ops (replay out tokens) ∧ t.bk.phase = if final then .done else .header := by
  obtain ⟨t, hst, ht, hsymbol, hkind, hfinal⟩ := State.Mid.header (.inl rfl) h hphase
  have hlit : t.litSlot = 3 := if_pos hkind
  have hdist : t.distSlot = 4 := if_pos hkind
  have hblock : t.InBlock final fixedLit fixedDist :=
    ⟨hfinal, by rw [hlit]; exact fixedLit_inverts, by rw [hdist]; exact fixedDist_inverts⟩
  have hend : fixedLit.len.getD 256 0 ≠ 0 := by
    have hlen : fixedLit.len.getD 256 0 = (fixedLit.codeOf 256).2 := rfl
    rw [hlen, fixedLit_codeOf (by decide)]
    exact Nat.succ_ne_zero _
  obtain ⟨u, htu, hu⟩ := State.At.putTokens hbounds (coded_fixed hbounds) hend ⟨ht, hblock, hsymbol⟩
  exact ⟨u, hst.trans htu, hu⟩

/-! ### The header of a dynamic block (R310, R311) -/

/-- The counts of a plan are those the format allows (R120). -/
theorem PlanFor.counts (h : PlanFor tokens plan) :
    (257 ≤ plan.nlit ∧ plan.nlit ≤ 286) ∧ (1 ≤ plan.ndist ∧ plan.ndist ≤ 30) ∧ 4 ≤ plan.ncl ∧ plan.ncl ≤ 19 := by
  have hll := lastUsed_le plan.ll.len
  have hd := lastUsed_le plan.d.len
  rw [h.ll.size] at hll
  rw [h.d.size] at hd
  have hncl := h.ncl_le
  rw [h.nlit, h.ndist]
  have hleast : 4 ≤ plan.ncl := by
    rw [h.ncl]
    exact Nat.le_max_left _ _
  omega

/-- The lengths of a dynamic block's codes are being read (R310 to R317). -/
structure State.AtLengths (s s0 : State) (rest : List Byte) (final : Bool) (plan : DynPlan) (phase : Phase)
    (ops : List WOp) (out : List Byte) : Prop where
  mid   : s.Mid s0 rest ops out
  phase : s.bk.phase = phase
  kind  : s.bk.kind = 2
  final : s.bk.final = final
  nlit  : s.bk.nlit = plan.nlit
  ndist : s.bk.ndist = plan.ndist

theorem State.AtLengths.staging {phase : Phase} (h : s.AtLengths s0 rest final plan phase ops out) :
    s.hc.stg.wf = true := h.mid.inDecode.units.staging.1

theorem State.Mid.dynamicHeader (hplan : PlanFor tokens plan)
    (h : s.Mid s0 rest (putBits (plan.nlit - 257) 5 :: putBits (plan.ndist - 1) 5 :: putBits (plan.ncl - 4) 4 :: ops) out)
    (hphase : s.bk.phase = .dynHdr) (hkind : s.bk.kind = 2) (hfinal : s.bk.final = final) :
    ∃ t, s.Runs t ∧ t.AtLengths s0 rest final plan .dynCl ops out ∧ t.bk.ncl = plan.ncl ∧ t.bk.idx = 0 ∧
      ∀ j, j < 19 → t.staged j = 0 := by
  obtain ⟨⟨hnlit, hnlit'⟩, ⟨hndist, hndist'⟩, hncl, hncl'⟩ := hplan.counts
  have hvalue : opsValue s.bc.total [putBits (plan.nlit - 257) 5, putBits (plan.ndist - 1) 5, putBits (plan.ncl - 4) 4] =
      plan.nlit - 257 + 32 * (plan.ndist - 1) + 1024 * (plan.ncl - 4) := by
    simp only [opsValue, putBits, WOp.value, WOp.bitsAt, BitVec.toNat_ofNat]
    omega
  obtain ⟨u, hread, hu⟩ := State.Mid.read_ok (n := 14)
    (xs := [putBits (plan.nlit - 257) 5, putBits (plan.ndist - 1) 5, putBits (plan.ncl - 4) 4]) h rfl hvalue (by decide)
  generalize hw : plan.nlit - 257 + 32 * (plan.ndist - 1) + 1024 * (plan.ncl - 4) = w at hread
  have hw1 : w % 2 ^ 5 + 257 = plan.nlit := by omega
  have hw2 : w / 2 ^ 5 % 2 ^ 5 + 1 = plan.ndist := by omega
  have hw3 : w / 2 ^ 10 % 2 ^ 4 + 4 = plan.ncl := by omega
  have hbk := hu.reads.bk
  have hstep : microStep params s = some (.ok () { u.stage 0 (List.replicate 19 0) with
      bk := { u.bk with nlit := plan.nlit, ndist := plan.ndist, ncl := plan.ncl, idx := 0, phase := .dynCl } }) := by
    rw [microStep, hphase]
    dsimp only
    rw [stepDynHdr, hread, Res.andThen]
    dsimp only
    rw [hw1, hw2, hw3, if_neg (by simp; omega)]
    rfl
  have hstaged := State.staged_stage (s := u) (l := List.replicate 19 0)
    (by rw [hu.reads.hc]; exact h.inDecode.units.staging.1) (by simp) 0
  refine ⟨_, .step hstep (.refl _), ⟨State.Mid.read (u := u) (xs := [putBits (plan.nlit - 257) 5, putBits (plan.ndist - 1) 5,
    putBits (plan.ncl - 4) 4]) h hu hstep rfl rfl rfl rfl ⟨rfl, rfl⟩, rfl, (congrArg Bk.kind hbk :).trans hkind,
    (congrArg Bk.final hbk :).trans hfinal, rfl, rfl⟩, rfl, rfl, fun j hj => ?_⟩
  refine (hstaged j).trans ?_
  rw [if_pos (Nat.zero_le j)]
  exact List.getD_replicate _ hj

/-! ### The code-length code (R312, R313) -/

/-- The cells read so far hold the code-length code's lengths, the others zeros (R312). -/
def State.HoldsCl (s : State) (plan : DynPlan) (i : Nat) : Prop :=
  ∀ k, k < 19 → s.staged (clord k) = if k < i then plan.cl.len.getD (clord k) 0 else 0

theorem clord_injective : ∀ j < 19, ∀ k < 19, clord j = clord k → j = k := by decide

theorem clord_surjective : ∀ j < 19, ∃ k < 19, clord k = j := by decide

theorem clordLens_getD (cl : Table) {k : Nat} (hk : k < 19) : (clordLens cl).getD k 0 = cl.len.getD (clord k) 0 := by
  rw [clordLens, List.getD_eq_getElem _ _ (by rw [List.length_map]; exact hk), List.getElem_map, clord,
    List.getD_eq_getElem clordList 0 hk]
  rfl

/-- All of them read, the cells hold the lengths (R312). -/
theorem State.HoldsCl.array (h : s.HoldsCl plan plan.ncl) (hplan : PlanFor tokens plan) :
    s.stagedArray 19 = plan.cl.len := by
  rw [← hplan.cl.size]
  refine State.stagedArray_eq fun j hj => ?_
  rw [hplan.cl.size] at hj
  obtain ⟨k, hk, rfl⟩ := clord_surjective j hj
  rw [h k hk]
  split
  · rfl
  · rename_i hlate
    have hzeros := drop_lastUsed (xs := clordLens plan.cl) (n := plan.ncl) (by rw [hplan.ncl]; exact Nat.le_max_right _ _)
    rw [← clordLens_getD plan.cl hk, ← Nat.add_sub_cancel' (Nat.not_lt.mp hlate)]
    have hget : ((clordLens plan.cl).drop plan.ncl).getD (k - plan.ncl) 0 = 0 := by rw [hzeros]; simp
    simpa using hget.symm

theorem State.staged_congr {s t : State} (h : t.hc = s.hc) (a : Nat) : t.staged a = s.staged a := by
  rw [State.staged, h, ← State.staged]

/-- A construction from good lengths inside a session (R206). -/
theorem State.buildLen_ok {s : State} {n limit : Nat} {len : List Nat} (k : Nat) (h : s.stagedArray n = len)
    (hgood : GoodLens limit len) : s.buildLen k n limit = .ok () (s.setTable k (Table.ofLens limit len)) := by
  rw [State.buildLen, h, buildLen_of_good hgood]
  rfl

/-- One more length of the code-length code (R312). -/
theorem State.HoldsCl.stage {i : Nat} (h : s.HoldsCl plan i) (hs : s.hc.stg.wf = true) (hi : i < 19)
    (hv : plan.cl.len.getD (clord i) 0 < 2 ^ 32) :
    (s.stage (clord i) [plan.cl.len.getD (clord i) 0]).HoldsCl plan (i + 1) := by
  intro k hk
  rw [State.staged_stage hs (by simpa using hv)]
  by_cases hki : k = i
  · subst hki
    rw [if_pos (Nat.le_refl _), Nat.sub_self, if_pos (Nat.lt_succ_self k)]
    rfl
  · have hne : clord k ≠ clord i := fun heq => hki (clord_injective k hk i hi heq)
    have hkeep : (if clord i ≤ clord k then [plan.cl.len.getD (clord i) 0].getD (clord k - clord i) (s.staged (clord k))
        else s.staged (clord k)) = s.staged (clord k) := by
      split
      · obtain ⟨m, hm⟩ := Nat.exists_eq_succ_of_ne_zero (show clord k - clord i ≠ 0 by omega)
        rw [hm]
        rfl
      · rfl
    rw [hkeep, h k hk]
    exact if_congr (by omega) rfl rfl

/-- A length of the code-length code stored (R312). -/
def State.storeCl (s : State) (v : Nat) : State :=
  { s.stage (clord s.bk.idx) [v] with bk := { s.bk with idx := s.bk.idx + 1 } }

/-- `DYN_CL`, its field given (R312, R313). -/
theorem stepDynCl_of_read {s u : State} {v : Nat} (h : s.read params 3 = .ok v u) : stepDynCl params s =
    if u.bk.idx + 1 = u.bk.ncl then
      ((u.storeCl v).buildLen 2 19 7).andThen fun _ t => .ok () ({ t with bk := { t.bk with idx := 0 } }.goto .dynLens)
    else .ok () (u.storeCl v) := by
  rw [stepDynCl, h]
  rfl

theorem Table.CodesFor.inverts {t : Table} {limit n : Nat} {symbols : List Nat} (h : t.CodesFor limit n symbols)
    (h1 : 1 ≤ limit) (h15 : limit ≤ 15) (hn : n ≤ 288) : t.Inverts t := by
  have hself := Table.inverts_self h.good h1 h15 (h.size ▸ hn)
  rwa [← h.lens] at hself

/-- The lengths of the code-length code, and its construction (R312, R313). -/
theorem State.AtLengths.codeLengths (hplan : PlanFor tokens plan) : ∀ (m i : Nat) {s : State}, i + m + 1 = plan.ncl →
    s.AtLengths s0 rest final plan .dynCl
      ((((clordLens plan.cl).take plan.ncl).drop i).map (fun l => putBits l 3) ++ ops) out →
    s.bk.ncl = plan.ncl → s.bk.idx = i → s.HoldsCl plan i →
    ∃ t, s.Runs t ∧ t.AtLengths s0 rest final plan .dynLens ops out ∧ t.bk.idx = 0 ∧ (t.table 2).Inverts plan.cl := by
  intro m i s hm h hncl hidx hcells
  obtain ⟨-, -, -, hmost⟩ := hplan.counts
  have hi : i < 19 := by omega
  have hlen : i < ((clordLens plan.cl).take plan.ncl).length := by
    rw [List.length_take, clordLens_length]
    omega
  have hhead : ((clordLens plan.cl).take plan.ncl)[i] = plan.cl.len.getD (clord i) 0 := by
    rw [List.getElem_take, ← clordLens_getD plan.cl hi, List.getD_eq_getElem]
  have hv : plan.cl.len.getD (clord i) 0 ≤ 7 := by
    have hcell : clord i < plan.cl.len.length := by
      rw [hplan.cl.size]
      have := clord_le i
      omega
    rw [List.getD_eq_getElem _ _ hcell]
    exact hplan.cl.good.le _ (List.getElem_mem hcell)
  obtain ⟨hmid, hphase, hkind, hfinal, hnlit, hndist⟩ := h
  rw [List.drop_eq_getElem_cons hlen, List.map_cons, hhead] at hmid
  generalize hvalue : plan.cl.len.getD (clord i) 0 = v at hmid hv
  obtain ⟨hbits, hfield⟩ := putBits_value (v := v) (n := 3) s.bc.total (by omega) (by decide)
  obtain ⟨u, hread, hu⟩ := State.Mid.read_ok (xs := [putBits v 3]) hmid hbits hfield (by decide)
  have hbk := hu.reads.bk
  have hidx' : u.bk.idx = i := by rw [hbk, hidx]
  have hncl' : u.bk.ncl = plan.ncl := by rw [hbk, hncl]
  have hucells : u.HoldsCl plan i := fun k hk => (State.staged_congr hu.reads.hc _).trans (hcells k hk)
  have hnext : (u.storeCl v).HoldsCl plan (i + 1) := by
    have hstage := hucells.stage (by rw [hu.reads.hc]; exact hmid.inDecode.units.staging.1) hi (by omega)
    rw [hvalue, ← hidx'] at hstage
    rw [← hidx']
    exact fun k hk => (State.staged_congr rfl _).trans (hstage k hk)
  have hmicro : microStep params s = some (stepDynCl params s) := by
    rw [microStep, hphase]
  rw [stepDynCl_of_read hread] at hmicro
  match m with
  | 0 =>
    have hlast : ((clordLens plan.cl).take plan.ncl).drop (i + 1) = [] :=
      List.drop_eq_nil_of_le (by rw [List.length_take]; omega)
    rw [hlast] at hmid
    rw [show i + 1 = plan.ncl by omega] at hnext
    have hbuilt := State.buildLen_ok 2 (hnext.array hplan) hplan.cl.good
    rw [← hplan.cl.lens] at hbuilt
    rw [if_pos (by omega), hbuilt] at hmicro
    exact ⟨_, .step hmicro (.refl _), ⟨State.Mid.read (u := u) (xs := [putBits v 3]) hmid hu hmicro rfl rfl rfl rfl
      ⟨rfl, rfl⟩, rfl, (congrArg Bk.kind hbk :).trans hkind, (congrArg Bk.final hbk :).trans hfinal,
      (congrArg Bk.nlit hbk :).trans hnlit, (congrArg Bk.ndist hbk :).trans hndist⟩, rfl, hplan.cl.inverts (by decide)
      (by decide) (by decide)⟩
  | m + 1 =>
    rw [if_neg (by omega)] at hmicro
    have hread' := State.Mid.read (u := u) (xs := [putBits v 3]) hmid hu hmicro rfl rfl rfl rfl ⟨rfl, rfl⟩
    obtain ⟨t, hruns, hend⟩ := State.AtLengths.codeLengths hplan m (i + 1) (by omega) ⟨hread',
      (congrArg Bk.phase hbk :).trans hphase, (congrArg Bk.kind hbk :).trans hkind,
      (congrArg Bk.final hbk :).trans hfinal, (congrArg Bk.nlit hbk :).trans hnlit,
      (congrArg Bk.ndist hbk :).trans hndist⟩ hncl' (congrArg (· + 1) hidx') hnext
    exact ⟨t, .step hmicro hruns, hend⟩

end

end Sys2Proof.Machine
end

section

namespace Sys2Proof.Machine

/-! ### One pair of the run-length coding, as it is read (R122, R314) -/

/-- The value of a pair's extra bits (R122). -/
def runExtra (p : Nat × Nat) : Nat := if p.1 < 16 then 0 else if p.1 = 18 then p.2 - 11 else p.2 - 3

theorem runInRange_iff (p : Nat × Nat) : runInRange p = true ↔
    p.1 < 16 ∨ p.1 = 16 ∧ 3 ≤ p.2 ∧ p.2 ≤ 6 ∨ p.1 = 17 ∧ 3 ≤ p.2 ∧ p.2 ≤ 10 ∨ p.1 = 18 ∧ 11 ≤ p.2 ∧ p.2 ≤ 138 := by
  simp only [runInRange, Bool.or_eq_true, Bool.and_eq_true, decide_eq_true_eq, beq_iff_eq]
  omega

theorem runExtra_lt {p : Nat × Nat} (h : runInRange p = true) : runExtra p < 2 ^ clExtra p.1 := by
  obtain ⟨sym, k⟩ := p
  rw [runInRange_iff] at h
  rcases h with h | ⟨rfl, h⟩ | ⟨rfl, h⟩ | ⟨rfl, h⟩
  · rw [runExtra, if_pos h]
    exact Nat.two_pow_pos _
  · show k - 3 < 2 ^ 2
    omega
  · show k - 3 < 2 ^ 3
    omega
  · show k - 11 < 2 ^ 7
    omega

theorem clExtra_le_seven (sym : Nat) : clExtra sym ≤ 7 := by
  rw [clExtra]
  split_ifs <;> decide

theorem putRun_value {cl : Table} {p : Nat × Nat} (h : runInRange p = true) (hlen : cl.len.getD p.1 0 ≤ 15) (t0 : Nat) :
    opsValue t0 (putRun cl p) =
      revBits (cl.len.getD p.1 0) (cl.code.getD p.1 0) + 2 ^ cl.len.getD p.1 0 * runExtra p := by
  have hextra := runExtra_lt h
  have hsmall : clExtra p.1 ≤ 32 := Nat.le_trans (clExtra_le_seven _) (by decide)
  have hsplit : putRun cl p = [putCode cl p.1] ++ if p.1 < 16 then [] else [putBits (runExtra p) (clExtra p.1)] := by
    obtain ⟨sym, k⟩ := p
    rw [runInRange_iff] at h
    rcases h with h | ⟨rfl, -⟩ | ⟨rfl, -⟩ | ⟨rfl, -⟩
    · have h : sym < 16 := h
      rw [putRun, if_neg (by dsimp only; omega), if_neg (by dsimp only; omega), if_neg (by dsimp only; omega), if_pos h]
      rfl
    all_goals rfl
  obtain ⟨hbits, hvalue⟩ := putCode_value (enc := cl) t0 hlen
  rw [hsplit, opsValue_append, hbits, hvalue]
  congr 2
  split
  · rename_i hfew
    rw [runExtra, if_pos hfew]
    rfl
  · exact (putBits_value _ hextra hsmall).2

theorem expandRuns_adds : ∀ (runs : List (Nat × Nat)) (out : List Nat), ∃ more, expandRuns out runs = out ++ more
  | [], out => ⟨[], (List.append_nil out).symm⟩
  | p :: runs, out => by
    obtain ⟨more, hmore⟩ := expandRuns_adds runs (out ++ List.replicate (runCount p) (runValue out p))
    exact ⟨List.replicate (runCount p) (runValue out p) ++ more, by rw [expandRuns_cons, hmore, List.append_assoc]⟩

theorem runCount_pos {p : Nat × Nat} (h : runInRange p = true) : 1 ≤ runCount p := by
  rw [runInRange_iff] at h
  rw [runCount]
  split <;> omega

/-! ### The lengths of a dynamic block (R314 to R317) -/

/-- The cells read so far hold the lengths of the two codes, slot 2 the code-length code (R314). -/
structure State.HoldsLens (s : State) (plan : DynPlan) (lens : List Nat) : Prop where
  idx   : s.bk.idx = lens.length
  cells : ∀ j, j < lens.length → s.staged j = lens.getD j 0
  slot  : (s.table 2).Inverts plan.cl

theorem State.HoldsLens.clRun {s : State} {plan : DynPlan} {lens : List Nat} (h : s.HoldsLens plan lens) {p : Nat × Nat}
    (hp : runInRange p = true) (hfresh : lens ≠ [] ∨ p.1 ≠ 16) :
    Machine.clRun s p.1 (runExtra p) = some (runCount p, runValue lens p) := by
  obtain ⟨sym, k⟩ := p
  rw [runInRange_iff] at hp
  rcases hp with hp | ⟨rfl, hp⟩ | ⟨rfl, hp⟩ | ⟨rfl, hp⟩
  · rw [Machine.clRun, if_pos hp, runCount, runValue, if_pos hp, if_pos hp]
  · have hne : lens ≠ [] := hfresh.resolve_right fun h => h rfl
    have hlength : 0 < lens.length := List.length_pos_of_ne_nil hne
    have hlast : s.staged (s.bk.idx - 1) = lens.getLastD 0 := by
      rw [h.idx, h.cells _ (by omega), List.getD_eq_getElem _ _ (by omega), List.getLastD_eq_getLast?,
        List.getLast?_eq_getElem?, List.getElem?_eq_getElem (by omega)]
      rfl
    show Machine.clRun s 16 (k - 3) = some (k, lens.getLastD 0)
    rw [Machine.clRun, if_neg (by decide), if_pos rfl, if_neg (by rw [h.idx]; omega), hlast, Nat.add_sub_cancel' hp.1]
  · show Machine.clRun s 17 (k - 3) = some (k, 0)
    rw [Machine.clRun, if_neg (by decide), if_neg (by decide), if_pos rfl, Nat.add_sub_cancel' hp.1]
  · show Machine.clRun s 18 (k - 11) = some (k, 0)
    rw [Machine.clRun, if_neg (by decide), if_neg (by decide), if_neg (by decide), Nat.add_sub_cancel' hp.1]

/-- The lengths a pair stands for, stored (R314). -/
def State.storeRun (s : State) (r v : Nat) : State :=
  { s.stage s.bk.idx (List.replicate r v) with bk := { s.bk with idx := s.bk.idx + r } }

theorem State.HoldsLens.store {s : State} {plan : DynPlan} {lens : List Nat} (h : s.HoldsLens plan lens)
    (hs : s.hc.stg.wf = true) {r v : Nat} (hv : v < 2 ^ 32) :
    (s.storeRun r v).HoldsLens plan (lens ++ List.replicate r v) where
  idx := by
    rw [List.length_append, List.length_replicate, ← h.idx]
    rfl
  cells := fun j hj => by
    rw [List.length_append, List.length_replicate] at hj
    have hstaged := State.staged_stage hs (l := List.replicate r v) (by simp; omega) s.bk.idx j
    refine (State.staged_congr (s := s.stage s.bk.idx (List.replicate r v)) rfl j).trans (hstaged.trans ?_)
    rw [h.idx]
    split
    · rw [List.getD_replicate _ (by omega), List.getD_append_right _ _ _ _ (by omega), List.getD_replicate _ (by omega)]
    · rw [h.cells j (by omega), List.getD_append _ _ _ _ (by omega)]
  slot := h.slot

section
variable {s0 : State} {rest out : List Byte} {final : Bool} {ops : List WOp} {plan : DynPlan}

/-- One pair is read (R314 to R316). -/
theorem State.AtLengths.run {s : State} {p : Nat × Nat} {lens : List Nat}
    (h : s.AtLengths s0 rest final plan .dynLens (putRun plan.cl p ++ ops) out) (hlens : s.HoldsLens plan lens)
    (hp : runInRange p = true) (hfresh : lens ≠ [] ∨ p.1 ≠ 16) (hcode : plan.cl.len.getD p.1 0 ≠ 0)
    (hroom : lens.length + runCount p ≤ plan.nlit + plan.ndist) (hv : runValue lens p < 2 ^ 32) :
    ∃ t, s.Runs t ∧ t.AtLengths s0 rest final plan .dynLens ops out ∧
      t.HoldsLens plan (lens ++ List.replicate (runCount p) (runValue lens p)) := by
  obtain ⟨hmid, hphase, hkind, hfinal, hnlit, hndist⟩ := h
  have hlen := hlens.slot.len_le hcode
  have hone := runCount_pos hp
  have hbits : opsBits s.bc.total (putRun plan.cl p) = plan.cl.len.getD p.1 0 + clExtra p.1 := opsBits_putRun _ _ _
  have hvalue := putRun_value hp hlen s.bc.total
  have hrev := revBits_lt (plan.cl.len.getD p.1 0) (plan.cl.code.getD p.1 0)
  obtain ⟨havail, hnext⟩ := hmid.sees.next
  rw [hbits] at havail hnext
  rw [hvalue] at hnext
  have hsymbol : s.upcoming % 2 ^ plan.cl.len.getD p.1 0 =
      revBits (plan.cl.len.getD p.1 0) (plan.cl.code.getD p.1 0) := by
    have hmod := congrArg (· % 2 ^ plan.cl.len.getD p.1 0) hnext
    rwa [Nat.mod_mod_of_dvd _ (pow_dvd_pow 2 (Nat.le_add_right _ _)), Nat.add_mul_mod_self_left,
      Nat.mod_eq_of_lt hrev] at hmod
  obtain ⟨t, u, hlookup, hpeek, ⟨r, hur⟩, hu⟩ := State.lookup_peek_takes hmid.inDecode.reading hlens.slot hcode hsymbol
    (clExtra_le_seven p.1) havail
  have hextra : s.upcoming % 2 ^ (plan.cl.len.getD p.1 0 + clExtra p.1) / 2 ^ plan.cl.len.getD p.1 0 = runExtra p := by
    rw [hnext, Nat.add_mul_div_left _ _ (Nat.two_pow_pos _), Nat.div_eq_of_lt hrev, Nat.zero_add]
  have hbk : u.bk = s.bk := by rw [hur]; rfl
  have hulens : u.HoldsLens plan lens := by
    rw [hur]
    exact ⟨hlens.idx, hlens.cells, hlens.slot⟩
  have hstep : microStep params s = some (.ok ()
      ((u.skip (plan.cl.len.getD p.1 0 + clExtra p.1)).storeRun (runCount p) (runValue lens p))) := by
    rw [microStep, hphase]
    dsimp only
    rw [stepDynLens, if_neg (by rw [hlens.idx, hnlit, hndist]; omega), hlookup, Res.andThen]
    dsimp only
    rw [hpeek, Res.andThen, hextra, hulens.clRun hp hfresh]
    dsimp only
    rw [if_neg (by rw [hbk, hlens.idx, hnlit, hndist]; omega)]
    rfl
  refine ⟨_, .step hstep (.refl _), ⟨State.Mid.read (u := u.skip (plan.cl.len.getD p.1 0 + clExtra p.1)) hmid
    (by rw [hbits]; exact hu) hstep rfl rfl rfl rfl ⟨rfl, rfl⟩, ?_, ?_, ?_, ?_, ?_⟩, ?_⟩
  · exact (congrArg Bk.phase hbk :).trans hphase
  · exact (congrArg Bk.kind hbk :).trans hkind
  · exact (congrArg Bk.final hbk :).trans hfinal
  · exact (congrArg Bk.nlit hbk :).trans hnlit
  · exact (congrArg Bk.ndist hbk :).trans hndist
  · refine State.HoldsLens.store (s := u.skip (plan.cl.len.getD p.1 0 + clExtra p.1)) ⟨hulens.idx, hulens.cells, hulens.slot⟩ ?_ hv
    show u.hc.stg.wf = true
    rw [hur]
    exact hmid.inDecode.units.staging.1

/-- All pairs are read (R314 to R317). -/
theorem State.AtLengths.runs {all : List Nat} (hall : ∀ l ∈ all, l ≤ 15)
    (hsize : all.length = plan.nlit + plan.ndist) : ∀ (runs : List (Nat × Nat)) {s : State} {lens : List Nat},
    (∀ p ∈ runs, runInRange p = true) → (lens ≠ [] ∨ ∀ p ∈ runs.head?, p.1 ≠ 16) →
    (∀ p ∈ runs, plan.cl.len.getD p.1 0 ≠ 0) → expandRuns lens runs = all →
    s.AtLengths s0 rest final plan .dynLens ((runs.map (putRun plan.cl)).flatten ++ ops) out → s.HoldsLens plan lens →
    ∃ t, s.Runs t ∧ t.AtLengths s0 rest final plan .dynLens ops out ∧ t.HoldsLens plan all
  | [], s, lens, _, _, _, hexpand, h, hlens => ⟨s, .refl s, h, hexpand ▸ hlens⟩
  | p :: runs, s, lens, hrange, hfresh, hcodes, hexpand, h, hlens => by
    rw [expandRuns_cons] at hexpand
    rw [List.map_cons, List.flatten_cons, List.append_assoc] at h
    have hp := hrange p List.mem_cons_self
    have hone := runCount_pos hp
    obtain ⟨more, hmore⟩ := expandRuns_adds runs (lens ++ List.replicate (runCount p) (runValue lens p))
    rw [hmore] at hexpand
    have hlength := congrArg List.length hexpand
    rw [List.length_append, List.length_append, List.length_replicate] at hlength
    have hv : runValue lens p ≤ 15 := by
      refine hall _ ?_
      rw [← hexpand]
      exact List.mem_append_left _ (List.mem_append_right _ (List.mem_replicate.mpr ⟨by omega, rfl⟩))
    obtain ⟨t, hst, ht, htlens⟩ := h.run hlens hp (hfresh.imp_right fun h => h p rfl) (hcodes p List.mem_cons_self)
      (by omega) (by omega)
    have hne : lens ++ List.replicate (runCount p) (runValue lens p) ≠ [] := by
      intro hnil
      have := congrArg List.length hnil
      rw [List.length_append, List.length_replicate, List.length_nil] at this
      omega
    obtain ⟨u, htu, hu⟩ := State.AtLengths.runs hall hsize runs (fun q hq => hrange q (List.mem_cons_of_mem _ hq))
      (.inl hne) (fun q hq => hcodes q (List.mem_cons_of_mem _ hq)) (hmore.trans hexpand) ht htlens
    exact ⟨u, hst.trans htu, hu⟩

end

end Sys2Proof.Machine
end

section

namespace Sys2Proof.Machine

section
variable {s0 s : State} {rest out : List Byte} {final : Bool} {ops : List WOp} {tokens : List Token} {plan : DynPlan}

/-! ### The tables of a dynamic block (R317, R318) -/

theorem PlanFor.lengths (h : PlanFor tokens plan) :
    (plan.ll.len.take plan.nlit).length = plan.nlit ∧ (plan.d.len.take plan.ndist).length = plan.ndist := by
  obtain ⟨⟨-, hnlit⟩, ⟨-, hndist⟩, -⟩ := h.counts
  rw [List.length_take, List.length_take, h.ll.size, h.d.size]
  omega

theorem State.InBlock.dynamic {s : State} {ll d : Table} (hkind : s.bk.kind = 2) (hfinal : s.bk.final = final)
    (hll : s.hc.slot0.Inverts ll) (hd : s.hc.slot1.Inverts d) : s.InBlock final ll d := by
  have hnotFixed : ¬s.bk.kind = 1 := by rw [hkind]; decide
  refine ⟨hfinal, ?_, ?_⟩
  · rw [State.litSlot, if_neg hnotFixed]
    exact hll
  · rw [State.distSlot, if_neg hnotFixed]
    exact hd

/-- The two tables are built (R317, R318). -/
theorem State.AtLengths.tables (hplan : PlanFor tokens plan) (h : s.AtLengths s0 rest final plan .dynLens ops out)
    (hlens : s.HoldsLens plan (plan.ll.len.take plan.nlit ++ plan.d.len.take plan.ndist)) :
    ∃ t, s.Runs t ∧ t.At s0 rest final plan.ll plan.d .symbol ops out := by
  obtain ⟨hlit, hdist⟩ := hplan.lengths
  have hstaging := h.staging
  obtain ⟨hmid, hphase, hkind, hfinal, hnlit, hndist⟩ := h
  obtain ⟨hidx, hcells, -⟩ := hlens
  rw [List.length_append, hlit, hdist] at hidx hcells
  have hllUsed : lastUsed plan.ll.len ≤ plan.nlit := by rw [hplan.nlit]; exact Nat.le_max_right _ _
  have hdUsed : lastUsed plan.d.len ≤ plan.ndist := by rw [hplan.ndist]; exact Nat.le_max_right _ _
  have hdSmall : ∀ l ∈ plan.d.len.take plan.ndist, l < 2 ^ 32 := fun l hl =>
    Nat.lt_of_le_of_lt ((hplan.d.good.take hdUsed).le l hl) (by decide)
  have hllArray : s.stagedArray plan.nlit = plan.ll.len.take plan.nlit := by
    have harray := State.stagedArray_eq (s := s) (l := plan.ll.len.take plan.nlit) fun j hj => by
      rw [hlit] at hj
      rw [hcells j (by omega), List.getD_append _ _ _ _ (by omega)]
    rwa [hlit] at harray
  have hllBuilt := State.buildLen_ok 0 hllArray (hplan.ll.good.take hllUsed)
  generalize hll : Table.ofLens 15 (plan.ll.len.take plan.nlit) = ll at hllBuilt
  have hmoved : (List.range plan.ndist).map (fun i => (s.setTable 0 ll).staged (plan.nlit + i)) =
      plan.d.len.take plan.ndist := by
    refine List.ext_getElem (by rw [List.length_map, List.length_range, hdist]) fun j hj hj' => ?_
    rw [hdist] at hj'
    have hcell : (s.setTable 0 ll).staged (plan.nlit + j) = s.staged (plan.nlit + j) := rfl
    rw [List.getElem_map, List.getElem_range, hcell, hcells _ (by omega), List.getD_append_right _ _ _ _ (by omega), hlit,
      Nat.add_sub_cancel_left, List.getD_eq_getElem _ _ (by omega)]
  have hdArray : ((s.setTable 0 ll).stage 0 (plan.d.len.take plan.ndist)).stagedArray plan.ndist =
      plan.d.len.take plan.ndist := by
    have harray := State.stagedArray_eq (s := (s.setTable 0 ll).stage 0 (plan.d.len.take plan.ndist))
      (l := plan.d.len.take plan.ndist) fun j hj => by
        rw [State.staged_stage (s := s.setTable 0 ll) hstaging hdSmall, if_pos (Nat.zero_le j), Nat.sub_zero, List.getD_eq_getElem _ _ hj,
          List.getD_eq_getElem _ _ hj]
    rwa [hdist] at harray
  have hdBuilt := State.buildLen_ok 1 hdArray (hplan.d.good.take hdUsed)
  have hstep : microStep params s = some (.ok ()
      (((((s.setTable 0 ll).stage 0 (plan.d.len.take plan.ndist)).setTable 1
        (Table.ofLens 15 (plan.d.len.take plan.ndist))).discard 2).goto .symbol)) := by
    have hbk : (s.setTable 0 ll).bk = s.bk := rfl
    have hbk' : ∀ l, ((s.setTable 0 ll).stage 0 l).bk = s.bk := fun _ => rfl
    rw [microStep, hphase]
    dsimp only
    rw [stepDynLens, if_pos (by rw [hidx, hnlit, hndist]), stepDynDone, hnlit, hllBuilt, Res.andThen]
    dsimp only
    rw [hbk', hbk, hnlit, hndist, hmoved, hdBuilt, Res.andThen]
  have hllInverts := Table.inverts_take hplan.ll.good (by decide) (by decide) hllUsed (by rw [hplan.ll.size]; decide)
  have hdInverts := Table.inverts_take hplan.d.good (by decide) (by decide) hdUsed (by rw [hplan.d.size]; decide)
  rw [← hplan.ll.lens, hll] at hllInverts
  rw [← hplan.d.lens] at hdInverts
  exact ⟨_, .step hstep (.refl _), State.Mid.stay hmid hstep rfl rfl rfl rfl ⟨rfl, rfl⟩,
    .dynamic hkind hfinal hllInverts hdInverts, rfl⟩

/-! ### A block of the dynamic kind (R275) -/

theorem State.Mid.dynamicBlock (hplan : PlanFor tokens plan) (hbounds : tokensInBounds out.length tokens = true)
    (h : s.Mid s0 rest (emitDynamic tokens plan final ++ ops) out) (hphase : s.bk.phase = .header) :
    ∃ t, s.Runs t ∧ t.Mid s0 rest ops (replay out tokens) ∧ t.bk.phase = if final then .done else .header := by
  obtain ⟨hlit, hdist⟩ := hplan.lengths
  have hall : ∀ l ∈ plan.ll.len.take plan.nlit ++ plan.d.len.take plan.ndist, l ≤ 15 := fun l hl => by
    rcases List.mem_append.mp hl with hl | hl
    · exact hplan.ll.good.le l (List.mem_of_mem_take hl)
    · exact hplan.d.good.le l (List.mem_of_mem_take hl)
  obtain ⟨hexpand, hrange, hfresh⟩ := rle_coded hall
  rw [← hplan.runs] at hexpand hrange hfresh
  have hcodes : ∀ p ∈ plan.runs, plan.cl.len.getD p.1 0 ≠ 0 := fun p hp => by
    have hsymbol := (runInRange_iff p).mp (hrange p hp)
    exact hplan.cl.codes p.1 (List.mem_map_of_mem hp) (by omega)
  simp only [emitDynamic, List.append_assoc, List.cons_append, List.nil_append] at h
  obtain ⟨t, hst, ht, hdynHdr, hkind, hfinal⟩ := State.Mid.header (.inr rfl) h hphase
  obtain ⟨u, htu, hu, hncl, hidx, hzeros⟩ := State.Mid.dynamicHeader hplan ht hdynHdr hkind hfinal
  obtain ⟨-, -, hleast, -⟩ := hplan.counts
  obtain ⟨v, huv, hv, hvidx, hslot⟩ := State.AtLengths.codeLengths hplan (plan.ncl - 1) 0 (by omega)
    (by rw [List.drop_zero]; exact hu) hncl hidx fun k hk => by
      rw [if_neg (Nat.not_lt_zero k)]
      exact hzeros _ (Nat.lt_succ_of_le (clord_le k))
  obtain ⟨w, hvw, hw, hwlens⟩ := State.AtLengths.runs hall (by rw [List.length_append, hlit, hdist]) plan.runs
    (lens := []) hrange (.inr hfresh) hcodes hexpand hv ⟨hvidx, fun j hj => absurd hj (Nat.not_lt_zero j), hslot⟩
  obtain ⟨x, hwx, hx⟩ := hw.tables hplan hwlens
  obtain ⟨y, hxy, hy⟩ := hx.putTokens hbounds (hplan.coded hbounds)
    (hplan.ll.codes 256 (List.mem_append_right _ (List.mem_singleton.mpr rfl)) (by decide))
  exact ⟨y, hst.trans (htu.trans (huv.trans (hvw.trans (hwx.trans hxy)))), hy⟩

/-! ### The blocks of a stream (R260, R304) -/

/-- A block of any kind (R262). -/
theorem Block.Of.decoded {level : Nat} {input : List Byte} {c : Bc} {p : Nat} {b : Block} (hb : b.Of level input c p)
    (h : s.Mid s0 rest (b.ops ++ ops) (input.take p)) (hphase : s.bk.phase = .header) :
    ∃ t, s.Runs t ∧ t.Mid s0 rest ops (input.take (p + covered b.tokens)) ∧
      t.bk.phase = if b.final then .done else .header := by
  obtain ⟨hbounds, -, hinside, hbytes⟩ := hb.covering
  have hlength : (input.take p).length = p := List.length_take_of_le (by omega)
  rw [← hlength] at hbounds
  rw [Block.ops] at h
  rw [← hbytes]
  cases hkind : b.kind with
  | stored =>
    rw [hkind, blockOps, emitStored] at h
    obtain ⟨k, hk⟩ := Nat.exists_eq_succ_of_ne_zero (show storedPieces b.raw.length ≠ 0 by rw [storedPieces]; omega)
    have hpieces : b.raw.length ≤ 65535 * (k + 1) := by
      rw [storedPieces, storedMax] at hk
      omega
    rw [hk] at h
    have hraw : replay (input.take p) b.tokens = input.take p ++ b.raw := by
      rw [hbytes, hb.raw, List.take_add]
    rw [hraw]
    exact State.Mid.storedBlocks k hpieces h hphase
  | fixedHuffman =>
    rw [hkind] at h
    exact State.Mid.fixedBlock hbounds h hphase
  | dynamicHuffman =>
    rw [hkind] at h
    exact State.Mid.dynamicBlock hb.plan hbounds h hphase

/-- The decoder makes the input of a stream of its blocks (R283). -/
theorem Stream.decoded {level : Nat} {input : List Byte} {c : Bc} {p : Nat} {blocks : List Block}
    (hblocks : Stream level input c p blocks) : ∀ {s : State},
    s.Mid s0 rest (blocks.flatMap Block.ops ++ ops) (input.take p) → s.bk.phase = .header →
    ∃ t, s.Runs t ∧ t.Mid s0 rest ops input ∧ t.bk.phase = .done := by
  induction hblocks with
  | last hfinal hof hend =>
    intro s h hphase
    rw [List.flatMap_cons, List.flatMap_nil, List.append_nil] at h
    obtain ⟨t, hst, ht, htphase⟩ := hof.decoded h hphase
    rw [hend, List.take_length] at ht
    rw [hfinal] at htphase
    exact ⟨t, hst, ht, htphase⟩
  | more hopen hof _ _ _ ih =>
    intro s h hphase
    rw [List.flatMap_cons, List.append_assoc] at h
    obtain ⟨t, hst, ht, htphase⟩ := hof.decoded h hphase
    rw [hopen] at htphase
    obtain ⟨u, htu, hu⟩ := ih ht htphase
    exact ⟨u, hst.trans htu, hu⟩

end

end Sys2Proof.Machine
end

section

namespace Sys2Proof.Machine

/-! ### Every micro-step makes progress (R300, R431) -/

/-- A piece of a micro-step leaves the BlockCodec's registers alone, and at least `n` bits fewer are to be read. -/
def State.Uses (s t : State) (n : Nat) : Prop := t.bitsLeft + n ≤ s.bitsLeft ∧ t.bk = s.bk

theorem State.uses_need {s t : State} {n : Nat} (h : s.need n = .ok () t) : s.Uses t 0 ∧ n ≤ t.bc.nbits := by
  have hremain := Bc.need_available n s.bc s.port.src
  rw [State.need] at h
  split at h
  · rw [State.starve] at h
    split at h <;> cases h
  · rename_i henough
    cases h
    exact ⟨⟨Nat.le_of_eq hremain, rfl⟩, Nat.not_lt.mp henough⟩

theorem State.uses_skip {s t : State} {m n : Nat} (h : s.Uses t m) (hn : n ≤ t.bc.nbits) : s.Uses (t.skip n) (m + n) := by
  obtain ⟨hbits, hbk⟩ := h
  refine ⟨?_, hbk⟩
  rw [State.bitsLeft] at hbits ⊢
  show t.bc.nbits - n + 8 * t.port.src.length + (m + n) ≤ s.bitsLeft
  omega

theorem State.uses_peek {s t : State} {n v : Nat} (h : s.peek params n = .ok v t) : s.Uses t 0 ∧ n ≤ t.bc.nbits := by
  obtain ⟨_, u, hneed, hu⟩ := Res.andThen_ok.mp h
  cases hu
  exact State.uses_need hneed

theorem State.uses_read {s t : State} {n v : Nat} (h : s.read params n = .ok v t) : s.Uses t n := by
  obtain ⟨_, u, hpeek, hu⟩ := Res.andThen_ok.mp h
  cases hu
  obtain ⟨huses, hn⟩ := State.uses_peek hpeek
  simpa using State.uses_skip huses hn

/-- A look-up finds codes of one bit or more (R214). -/
theorem Table.lookupFrom_uses (t : Table) : ∀ (k l : Nat) (c : Bc) (src : List Byte) {symbol length : Nat},
    1 ≤ l → (t.lookupFrom params k l c src).2 = .found symbol length →
    1 ≤ length ∧ length ≤ (t.lookupFrom params k l c src).1.1.nbits ∧
      (t.lookupFrom params k l c src).1.1.nbits + 8 * (t.lookupFrom params k l c src).1.2.length =
        c.nbits + 8 * src.length
  | 0, _, _, _, _, _, _, h => by cases h
  | k + 1, l, c, src, symbol, length, hl, h => by
    have hremain := Bc.need_available l c src
    rw [Table.lookupFrom] at h ⊢
    split at h
    · cases h
    · rename_i henough
      rw [if_neg henough]
      split at h
      · cases h
        exact ⟨hl, Nat.not_lt.mp henough, hremain⟩
      · obtain ⟨hone, hmost, hrest⟩ := t.lookupFrom_uses k (l + 1) _ _ (by omega) h
        exact ⟨hone, hmost, hrest.trans hremain⟩

theorem State.uses_lookup {s t : State} {k symbol length : Nat} (h : s.lookup params k = .ok (symbol, length) t) :
    s.Uses t 0 ∧ 1 ≤ length ∧ length ≤ t.bc.nbits := by
  rw [State.lookup] at h
  split at h
  · rename_i hfound
    cases h
    obtain ⟨hone, hmost, hremain⟩ := (s.table k).lookupFrom_uses _ 1 s.bc s.port.src (Nat.le_refl 1) hfound
    exact ⟨⟨Nat.le_of_eq hremain, rfl⟩, hone, hmost⟩
  · rw [State.starve] at h
    split at h <;> cases h
  · cases h

theorem State.uses_decodeSym {s t : State} {k v : Nat} (h : s.decodeSym params k = .ok v t) : s.Uses t 1 := by
  obtain ⟨⟨symbol, length⟩, u, hlookup, hu⟩ := Res.andThen_ok.mp h
  cases hu
  obtain ⟨huses, hone, hmost⟩ := State.uses_lookup hlookup
  obtain ⟨hbits, hbk⟩ := State.uses_skip huses hmost
  exact ⟨by dsimp only at hbits ⊢; omega, hbk⟩

theorem State.buildLen_keeps {s t : State} {k n limit : Nat} (h : s.buildLen k n limit = .ok () t) :
    t.bitsLeft = s.bitsLeft ∧ t.bk = s.bk := by
  rw [State.buildLen] at h
  split at h
  · cases h
    exact ⟨by simp [State.bitsLeft], by simp⟩
  · cases h

theorem State.endBlock_fuel (s : State) : s.endBlock.engineFuel ≤ 300 * s.bitsLeft + 2 := by
  obtain ⟨hbc, hport, -, -, hbk⟩ := s.endBlock_keeps
  rw [State.engineFuel, State.bitsLeft, hbc, hport, State.phaseWeight, hbk, ← State.bitsLeft]
  cases s.bk.final with
  | true => exact Nat.add_le_add_left (by decide : 0 + 1 ≤ 2) _
  | false => exact Nat.le_refl _

section
variable {t : State}

theorem State.engineFuel_storedCopy (h : t.bk.phase = .storedCopy) : t.engineFuel = 300 * t.bitsLeft + 3 := by
  rw [State.engineFuel, State.phaseWeight, h]

theorem State.engineFuel_dynCl (h : t.bk.phase = .dynCl) : t.engineFuel = 300 * t.bitsLeft + 1 := by
  rw [State.engineFuel, State.phaseWeight, h]
  rfl

theorem State.engineFuel_dynLens (h : t.bk.phase = .dynLens) : t.engineFuel = 300 * t.bitsLeft + 4 := by
  rw [State.engineFuel, State.phaseWeight, h]

theorem State.engineFuel_symbol (h : t.bk.phase = .symbol) : t.engineFuel = 300 * t.bitsLeft + 2 := by
  rw [State.engineFuel, State.phaseWeight, h]

theorem State.engineFuel_copy (h : t.bk.phase = .copy) : t.engineFuel = 300 * t.bitsLeft + (t.bk.copyRem + 3) := by
  rw [State.engineFuel, State.phaseWeight, h]
  rfl

end

/-! What is left of the bound on the micro-steps after each of them (R431). -/

section
variable {s t : State}

theorem stepHeader_fuel (h : stepHeader params s = .ok () t) : t.engineFuel ≤ 300 * s.bitsLeft + 1 := by
  obtain ⟨v, u, hread, h⟩ := Res.andThen_ok.mp h
  obtain ⟨hbits, -⟩ := State.uses_read hread
  dsimp only at h
  split at h
  · cases h
    have halign : (u.skip u.bc.partialBits).bitsLeft ≤ u.bitsLeft := by
      rw [State.bitsLeft, State.bitsLeft]
      exact Nat.add_le_add_right (Nat.sub_le _ _) _
    show 300 * (u.skip u.bc.partialBits).bitsLeft + 0 + 1 ≤ _
    omega
  · split at h
    · cases h
      show 300 * u.bitsLeft + 1 + 1 ≤ _
      omega
    · split at h
      · cases h
        show 300 * u.bitsLeft + 0 + 1 ≤ _
        omega
      · cases h

theorem stepStoredLen_fuel (h : stepStoredLen params s = .ok () t) : t.engineFuel ≤ 300 * s.bitsLeft + 0 := by
  obtain ⟨v, u, hread, h⟩ := Res.andThen_ok.mp h
  obtain ⟨hbits, -⟩ := State.uses_read hread
  split at h
  · cases h
  · cases h
    show 300 * u.bitsLeft + 2 + 1 ≤ _
    omega

theorem stepStoredCopy_fuel (hphase : s.bk.phase = .storedCopy) (h : stepStoredCopy params s = .ok () t) :
    t.engineFuel ≤ 300 * s.bitsLeft + 2 := by
  rw [stepStoredCopy] at h
  split at h
  · cases h
    exact s.endBlock_fuel
  · obtain ⟨v, u, hread, h⟩ := Res.andThen_ok.mp h
    obtain ⟨hbits, hbk⟩ := State.uses_read hread
    cases h
    refine Nat.le_trans (Nat.le_of_eq (State.engineFuel_storedCopy ((congrArg Bk.phase hbk :).trans hphase))) ?_
    show 300 * u.bitsLeft + 3 ≤ _
    omega

theorem stepDynHdr_fuel (h : stepDynHdr params s = .ok () t) : t.engineFuel ≤ 300 * s.bitsLeft + 0 := by
  obtain ⟨v, u, hread, h⟩ := Res.andThen_ok.mp h
  obtain ⟨hbits, -⟩ := State.uses_read hread
  dsimp only at h
  split at h
  · cases h
  · cases h
    show 300 * u.bitsLeft + 0 + 1 ≤ _
    omega

theorem stepDynCl_fuel (hphase : s.bk.phase = .dynCl) (h : stepDynCl params s = .ok () t) :
    t.engineFuel ≤ 300 * s.bitsLeft + 0 := by
  obtain ⟨v, u, hread, -⟩ := Res.andThen_ok.mp h
  obtain ⟨hbits, hbk⟩ := State.uses_read hread
  rw [stepDynCl_of_read hread] at h
  split at h
  · obtain ⟨_, v, hbuilt, h⟩ := Res.andThen_ok.mp h
    obtain ⟨hkeep, -⟩ := State.buildLen_keeps hbuilt
    have hstored : ∀ x, (u.storeCl x).bitsLeft = u.bitsLeft := fun _ => rfl
    rw [hstored] at hkeep
    cases h
    show 300 * v.bitsLeft + 3 + 1 ≤ _
    omega
  · cases h
    refine Nat.le_trans (Nat.le_of_eq (State.engineFuel_dynCl ((congrArg Bk.phase hbk :).trans hphase))) ?_
    show 300 * u.bitsLeft + 1 ≤ _
    omega

theorem stepDynDone_fuel (h : stepDynDone s = .ok () t) : t.engineFuel ≤ 300 * s.bitsLeft + 3 := by
  obtain ⟨_, u, hbuilt, h⟩ := Res.andThen_ok.mp h
  obtain ⟨_, v, hbuilt', h⟩ := Res.andThen_ok.mp h
  have hfirst := (State.buildLen_keeps hbuilt).1
  have hsecond := (State.buildLen_keeps hbuilt').1
  have hstaged : ∀ a l, (u.stage a l).bitsLeft = u.bitsLeft := fun _ _ => rfl
  rw [hstaged, hfirst] at hsecond
  cases h
  show 300 * v.bitsLeft + 1 + 1 ≤ _
  omega

theorem stepDynLens_fuel (hphase : s.bk.phase = .dynLens) (h : stepDynLens params s = .ok () t) :
    t.engineFuel ≤ 300 * s.bitsLeft + 3 := by
  rw [stepDynLens] at h
  split at h
  · exact stepDynDone_fuel h
  · obtain ⟨⟨symbol, length⟩, u, hlookup, h⟩ := Res.andThen_ok.mp h
    obtain ⟨w, v, hpeek, h⟩ := Res.andThen_ok.mp h
    obtain ⟨⟨hbits, hbk⟩, hone, -⟩ := State.uses_lookup hlookup
    obtain ⟨hpeeked, hmost⟩ := State.uses_peek hpeek
    obtain ⟨hskip, -⟩ := State.uses_skip hpeeked hmost
    obtain ⟨-, hbk'⟩ := hpeeked
    dsimp only at h hskip
    split at h
    · cases h
    · split at h
      · cases h
      · cases h
        refine Nat.le_trans (Nat.le_of_eq (State.engineFuel_dynLens
          ((congrArg Bk.phase (hbk'.trans hbk) :).trans hphase))) ?_
        show 300 * (v.skip (length + clExtra symbol)).bitsLeft + 4 ≤ _
        omega

theorem stepSymbol_fuel (hphase : s.bk.phase = .symbol) (h : stepSymbol params s = .ok () t) :
    t.engineFuel ≤ 300 * s.bitsLeft + 1 := by
  obtain ⟨symbol, u, hdecode, h⟩ := Res.andThen_ok.mp h
  obtain ⟨hbits, hbk⟩ := State.uses_decodeSym hdecode
  split at h
  · cases h
    refine Nat.le_trans (Nat.le_of_eq (State.engineFuel_symbol ((congrArg Bk.phase hbk :).trans hphase))) ?_
    show 300 * u.bitsLeft + 2 ≤ _
    omega
  · split at h
    · cases h
      have := u.endBlock_fuel
      omega
    · split at h
      · cases h
        show 300 * u.bitsLeft + 264 + 1 ≤ _
        omega
      · cases h

theorem stepLenExtra_fuel (hsym : s.bk.lenSym ≤ 285) (h : stepLenExtra params s = .ok () t) :
    t.engineFuel ≤ 300 * s.bitsLeft + 264 := by
  obtain ⟨e, u, hread, h⟩ := Res.andThen_ok.mp h
  obtain ⟨hbits, hbk⟩ := State.uses_read hread
  have he : e < 2 ^ lextra (s.bk.lenSym - 257) := by
    have hpost := s.read_post params (n := lextra (s.bk.lenSym - 257)) (Nat.le_trans (lextra_le _) (by decide))
    rw [hread] at hpost
    cases hpost with
    | done hdone => exact hdone.2
  have hlength := (lbase_add_lt (i := s.bk.lenSym - 257) (by omega) he).2
  cases h
  show 300 * u.bitsLeft + (lbase (u.bk.lenSym - 257) + e + 5) + 1 ≤ _
  rw [hbk]
  omega

theorem stepDistSym_fuel (h : stepDistSym params s = .ok () t) :
    t.engineFuel ≤ 300 * s.bitsLeft + (s.bk.length + 5) := by
  obtain ⟨j, u, hdecode, h⟩ := Res.andThen_ok.mp h
  obtain ⟨hbits, hbk⟩ := State.uses_decodeSym hdecode
  split at h
  · cases h
  · cases h
    show 300 * u.bitsLeft + (u.bk.length + 4) + 1 ≤ _
    rw [hbk]
    omega

theorem stepDistExtra_fuel (h : stepDistExtra params s = .ok () t) :
    t.engineFuel ≤ 300 * s.bitsLeft + (s.bk.length + 4) := by
  obtain ⟨e, u, hread, h⟩ := Res.andThen_ok.mp h
  obtain ⟨hbits, hbk⟩ := State.uses_read hread
  dsimp only at h
  split at h
  · cases h
  · cases h
    show 300 * u.bitsLeft + (u.bk.length + 2) + 1 ≤ _
    rw [hbk]
    omega

theorem stepCopy_fuel (hphase : s.bk.phase = .copy) (h : stepCopy s = .ok () t) :
    t.engineFuel ≤ 300 * s.bitsLeft + (s.bk.copyRem + 2) := by
  rw [stepCopy] at h
  split at h
  · cases h
    show 300 * s.bitsLeft + 1 + 1 ≤ _
    omega
  · split at h
    · cases h
    · cases h
      refine Nat.le_trans (Nat.le_of_eq (State.engineFuel_copy hphase)) ?_
      show 300 * s.bitsLeft + (s.bk.copyRem - 1 + 3) ≤ _
      omega

end

/-- The bound on the micro-steps falls with each (R431). -/
theorem microStep_fuel {s t : State} (hs : s.InDecode) (h : microStep params s = some (.ok () t)) :
    t.engineFuel < s.engineFuel := by
  have hranges := hs.ranges
  rw [State.engineFuel.eq_1 s, State.phaseWeight, Nat.lt_succ_iff]
  cases hphase : s.bk.phase <;> simp only [microStep, hphase, Option.some.injEq, reduceCtorEq] at h
  case header => exact stepHeader_fuel h
  case storedLen => exact stepStoredLen_fuel h
  case storedCopy => exact stepStoredCopy_fuel hphase h
  case dynHdr => exact stepDynHdr_fuel h
  case dynCl => exact stepDynCl_fuel hphase h
  case dynLens => exact stepDynLens_fuel hphase h
  case symbol => exact stepSymbol_fuel hphase h
  case lenExtra =>
    rw [hphase] at hranges
    exact stepLenExtra_fuel hranges.2.2 h
  case distSym => exact stepDistSym_fuel h
  case distExtra => exact stepDistExtra_fuel h
  case copy => exact stepCopy_fuel hphase h

end Sys2Proof.Machine
end

section

namespace Sys2Proof.Machine

/-! ### `BK_DECOMPRESS` of a compressed input (R283, R350) -/

theorem microStep_of_done {s : State} (h : s.bk.phase = .done) : microStep params s = none := by rw [microStep, h]

/-- The engine without a limit follows the micro-steps to the end of the stream (R300). -/
theorem State.Runs.decLoop {s t : State} (h : s.Runs t) (hdone : t.bk.phase = .done) (out0 : Nat) : s.InDecode →
    ∀ fuel, s.engineFuel ≤ fuel → Machine.decLoop params none out0 fuel s = .status .finished t := by
  induction h with
  | refl s =>
    intro _ fuel hfuel
    obtain ⟨fuel, rfl⟩ := Nat.exists_eq_succ_of_ne_zero (show fuel ≠ 0 by rw [State.engineFuel] at hfuel; omega)
    rw [Machine.decLoop, if_pos hdone]
  | @step s u t hstep _ ih =>
    intro hs fuel hfuel
    have hless := microStep_fuel hs hstep
    obtain ⟨fuel, rfl⟩ := Nat.exists_eq_succ_of_ne_zero (show fuel ≠ 0 by omega)
    have hgoing : ¬s.bk.phase = .done := fun h => by
      rw [microStep_of_done h] at hstep
      cases hstep
    have hlimit : ¬(s.bk.phase.producing && s.capReached none out0) = true := by simp [State.capReached]
    rw [Machine.decLoop, if_neg hgoing, if_neg hlimit, hstep]
    exact ih hdone (hs.step hstep) fuel (by omega)

/-- After the last block only the pad bits and what follows the stream are left, and the pad bits are taken (R304). -/
theorem State.Mid.source_eq {s s0 : State} {rest out : List Byte} (h : s.Mid s0 rest [.align] out)
    (hsuffix : ∃ before, s0.port.src = before ++ rest) : s.port.src = rest := by
  obtain ⟨hwf, hmode⟩ := h.inDecode.reading
  obtain ⟨-, hbytes, -⟩ := (Bc.wf_read_iff hmode).mp hwf
  have havailable := h.sees.available
  have hpending := h.sees.pending
  have hpad : opsBits s.bc.total [.align] = (8 - s.bc.total % 8) % 8 := rfl
  rw [hpad, State.available] at havailable
  obtain ⟨before, hbefore⟩ := hsuffix
  obtain ⟨taken, htaken⟩ := h.sees.source
  exact List.append_inj_right' (htaken.trans hbefore) (by omega)

/-- A decode session at its start (R343). -/
theorem State.Mid.start {s0 : State} {level : Nat} {input rest : List Byte} {blocks : List Block}
    (hin : s0.InDecode) (hbc : s0.bc = Bc.init .read .lsbFirst) (hcursor : s0.sw.cursor = 0)
    (hblocks : Stream level input (Bc.init .write .lsbFirst) 0 blocks) (hsrc : s0.port.src = packed blocks ++ rest) :
    s0.Mid s0 rest (blocks.flatMap Block.ops ++ [.align]) (input.take 0) := by
  have hvalue := hblocks.packed_value
  have hbits : 8 * (packed blocks).length = opsBits 0 (blocks.flatMap Block.ops ++ [.align]) := by
    have htotal := (Bc.Writing.counts (c := Bc.init .write .lsbFirst) ⟨Bc.wf_init _ _, rfl⟩
      (blocks.flatMap Block.ops ++ [.align])).1
    rw [(packed_length blocks).1] at htotal
    exact htotal.trans (Nat.zero_add _)
  have hpad : opsValue 0 (blocks.flatMap Block.ops ++ [.align]) = opsValue 0 (blocks.flatMap Block.ops) := by
    rw [opsValue_append]
    rfl
  have hempty : s0.bc.total = 0 ∧ s0.bc.nbits = 0 ∧ s0.bc.acc.toNat = 0 ∧ s0.bc.order = .lsbFirst := by
    rw [hbc]
    exact ⟨rfl, rfl, rfl, rfl⟩
  obtain ⟨htotal, hnbits, hacc, horder⟩ := hempty
  refine ⟨hin, ⟨?_, ?_, ?_, ?_, List.suffix_refl _⟩, ⟨(List.append_nil _).symm, ⟨hcursor, fun j hj => ?_⟩, rfl, rfl, rfl⟩⟩
  · rw [State.upcoming, htotal, hnbits, hacc, horder, hsrc, streamValue_append, hbits, hvalue, hpad]
    ring
  · rw [State.available, htotal, hnbits, hsrc, List.length_append, ← hbits]
    omega
  · rw [State.available, htotal, hnbits]
    omega
  · rw [hnbits]
    decide
  · omega

/-- A decode session delivers the input of the stream at its source, and leaves what follows it (R283). -/
theorem exec_bkDecompress {s : State} {level : Nat} {input rest : List Byte} {blocks : List Block} (hs : s.Inv)
    (hfit : s.countersFit = true) (hblocks : Stream level input (Bc.init .write .lsbFirst) 0 blocks)
    (hsrc : s.port.src = packed blocks ++ rest) (hinput : input.length < 2 ^ 32)
    (hpacked : (packed blocks).length < 2 ^ 40) :
    ∃ t, exec .bkDecompress s = .next t ∧ t.port.sink = s.port.sink ++ input ∧ t.port.src = rest ∧
      t.bk.phase = .done := by
  have hport := s.startSession_port params .decode 0
  have hfit0 := s.startSession_countersFit .decode 0 hfit
  have hin := (hs.units.startDecode 0).1.markLast true
  have hbc : ((s.startSession params .decode 0).markLast true).bc = Bc.init .read .lsbFirst := rfl
  have hcursor : ((s.startSession params .decode 0).markLast true).sw.cursor = 0 := rfl
  have hphase : ((s.startSession params .decode 0).markLast true).bk.phase = .header := rfl
  have hport : ((s.startSession params .decode 0).markLast true).port = s.port := hport
  have hfit0 : ((s.startSession params .decode 0).markLast true).countersFit = true := hfit0
  have hexec : exec .bkDecompress s = execBkDecompress s := rfl
  rw [hexec, execBkDecompress]
  dsimp only
  generalize (s.startSession params .decode 0).markLast true = s0 at *
  obtain ⟨t, hruns, hmid, hdone⟩ := hblocks.decoded (State.Mid.start hin hbc hcursor hblocks (by rw [hport, hsrc])) hphase
  have hengine : s0.decEngine params none = .status .finished t :=
    hruns.decLoop hdone s0.bk.outTotal hin s0.engineFuel (Nat.le_refl _)
  have hrest : t.port.src = rest := hmid.source_eq ⟨packed blocks, by rw [hport, hsrc]⟩
  have hsink : t.port.sink = s.port.sink ++ input := by rw [hmid.gave.sink, hport]
  have hcounts : t.setIn.countersFit = true := by
    obtain ⟨hwf, hmode⟩ := hmid.inDecode.reading
    obtain ⟨-, hbytes, -⟩ := (Bc.wf_read_iff hmode).mp hwf
    have hconsumed := hmid.sees.consumed
    have havailable := hmid.sees.available
    have hpending := hmid.sees.pending
    have hcursor' := hmid.gave.window.cursor
    have hout : t.bk.outTotal = t.sw.cursor := hmid.inDecode.session.2.2.2.2.2
    rw [hport, hsrc, List.length_append] at hconsumed
    obtain ⟨-, -, -, hpos, hknown, -, -, hstart, htok⟩ := (State.countersFit_iff s0).mp hfit0
    rw [State.countersFit_iff]
    show t.bc.total < 2 ^ 64 ∧ t.bc.nbytes < 2 ^ 64 ∧ t.sw.cursor < 2 ^ 64 ∧ t.mf.pos < 2 ^ 64 ∧
      t.mf.input.length < 2 ^ 64 ∧ t.bc.nbytes < 2 ^ 64 ∧ t.bk.outTotal < 2 ^ 64 ∧ t.bk.blkStart < 2 ^ 64 ∧
      t.mf.tok.length < 2 ^ 32
    rw [hmid.gave.finder, hmid.gave.blkStart, hout]
    refine ⟨?_, ?_, ?_, hpos, hknown, ?_, ?_, hstart, htok⟩ <;> omega
  rw [hengine]
  exact ⟨_, State.finish_of_fit ((State.countersFit_closeFinished t.setIn).trans hcounts), hsink, hrest, rfl⟩

/-- Settles O60: the decoder reads the operations the encoder wrote, block by block (`Stream.decoded`), and each of its
micro-steps makes progress (`microStep_fuel`). -/
theorem decompressInvertsCompress : Obligations.DecompressInvertsCompress := by
  intro level s t out rest s2 hlevel hn hexec hsink hs2 hfit hsrc
  obtain ⟨blocks, t', hexec', hcompressed, hcompresses⟩ := exec_bkCompress hlevel hn
  obtain rfl : t' = t := by
    rw [hexec] at hexec'
    cases hexec'
    rfl
  obtain rfl : packed blocks = out := List.append_cancel_left (hcompresses.sink.symm.trans hsink)
  have hbound := hcompressed.length_le
  have hblocks : blocksFor s.port.src.length ≤ 2 ^ 32 := by
    rw [blocksFor]
    omega
  exact exec_bkDecompress hs2 hfit hcompressed.stream hsrc hn
    (by generalize blocksFor s.port.src.length = most at *; omega)

end Sys2Proof.Machine
end

section

namespace Sys2Proof.Machine

/-! ### A refill, whatever the channel holds (R148)

The invariant bounds the pending bits; a refill loses no bit without it, up to the 64 bits of the accumulator. -/

/-- Bytes of the source have joined the pending bits, and nothing else has happened to the channel. -/
structure Bc.Refills (c : Bc) (src : List Byte) (r : Bc × List Byte) : Prop where
  total : r.1.total = c.total
  taken : ∃ k, k ≤ src.length ∧ r.2 = src.drop k ∧ r.1.nbits = c.nbits + 8 * k ∧ r.1.nbytes = c.nbytes + k
  bits  : c.acc.toNat < 2 ^ c.nbits →
    r.1.acc.toNat < 2 ^ r.1.nbits ∧ r.1.upcoming r.2 ≡ c.upcoming src [MOD 2 ^ 64]

theorem Bc.Refills.refl (c : Bc) (src : List Byte) : Bc.Refills c src (c, src) :=
  ⟨rfl, ⟨0, Nat.zero_le _, rfl, rfl, rfl⟩, fun h => ⟨h, rfl⟩⟩

theorem Bc.Refills.trans {c : Bc} {src : List Byte} {r r' : Bc × List Byte} (h : Bc.Refills c src r)
    (h' : Bc.Refills r.1 r.2 r') : Bc.Refills c src r' := by
  obtain ⟨htotal, ⟨k, hk, hsrc, hnbits, hnbytes⟩, hbits⟩ := h
  obtain ⟨htotal', ⟨k', hk', hsrc', hnbits', hnbytes'⟩, hbits'⟩ := h'
  rw [hsrc, List.length_drop] at hk'
  rw [hsrc, List.drop_drop] at hsrc'
  refine ⟨htotal'.trans htotal, ⟨k + k', by omega, hsrc', by omega, by omega⟩, fun hacc => ?_⟩
  obtain ⟨hacc', hmod⟩ := hbits hacc
  obtain ⟨hacc'', hmod'⟩ := hbits' hacc'
  exact ⟨hacc'', hmod'.trans hmod⟩

theorem Bc.refills_takeByte (c : Bc) (b : Byte) (rest : List Byte) : Bc.Refills c (b :: rest) (c.takeByte b, rest) := by
  refine ⟨rfl, ⟨1, by simp, rfl, rfl, rfl⟩, fun hacc => ?_⟩
  have hbyte : ((c.ordered b).setWidth 64).toNat = (passes c.order b).toNat := by
    rw [BitVec.toNat_setWidth_of_le (by decide), Bc.ordered_eq_passes]
  have hlt : (passes c.order b).toNat < 2 ^ 8 := BitVec.isLt _
  have hjoin : (c.takeByte b).acc.toNat ≡ c.acc.toNat + 2 ^ c.nbits * (passes c.order b).toNat [MOD 2 ^ 64] := by
    rw [Bc.takeByte, BitVec.toNat_or, BitVec.toNat_shiftLeft, hbyte, Nat.shiftLeft_eq, Nat.mul_comm, Nat.ModEq,
      Nat.or_mod_two_pow, Nat.mod_mod, ← Nat.or_mod_two_pow, Nat.or_comm, ← Nat.two_pow_add_eq_or_of_lt hacc,
      Nat.add_comm]
  refine ⟨acc_join_lt hacc (hbyte ▸ hlt), ?_⟩
  show (c.takeByte b).acc.toNat + 2 ^ (c.nbits + 8) * streamValue c.order rest ≡
    c.acc.toNat + 2 ^ c.nbits * ((passes c.order b).toNat + 2 ^ 8 * streamValue c.order rest) [MOD 2 ^ 64]
  rw [Nat.mul_add, ← Nat.add_assoc, ← Nat.mul_assoc, ← pow_add]
  exact hjoin.add_right _

theorem Bc.refills_need (n : Nat) : ∀ (src : List Byte) (c : Bc), Bc.Refills c src (Bc.need n c src)
  | [], c => .refl c []
  | b :: rest, c => by
    rw [Bc.need]
    split
    · exact (Bc.refills_takeByte c b rest).trans (Bc.refills_need n rest _)
    · exact .refl c (b :: rest)

/-- A refill that falls short has taken the whole source (R148). -/
theorem Bc.need_short_src {n : Nat} {c : Bc} {src : List Byte} (h : (Bc.need n c src).1.nbits < n) :
    (Bc.need n c src).2 = [] := by
  obtain ⟨k, -, hsrc, -, -, -, -, -, -, -, hend, -⟩ := Bc.need_spec n src c
  rw [hsrc, List.drop_eq_nil_iff]
  omega

/-- The refill is minimal (R148). -/
theorem Bc.need_minimal (n : Nat) (c : Bc) (src : List Byte) :
    (Bc.need n c src).1.nbits ≤ c.nbits ∨ (Bc.need n c src).1.nbits ≤ n + 7 := by
  obtain ⟨k, -, -, -, -, -, -, -, -, -, -, hminimal⟩ := Bc.need_spec n src c
  exact hminimal

/-- A look-up only refills the channel, for the length it ends at; it falls short only of an empty source (R221). -/
theorem Table.lookupFrom_refills (P : Config.Params) (t : Table) : ∀ (k l : Nat) (c : Bc) (src : List Byte),
    Bc.Refills c src (t.lookupFrom P k l c src).1 ∧
      (∀ symbol len, (t.lookupFrom P k l c src).2 = .found symbol len →
        l ≤ len ∧ len ≤ (t.lookupFrom P k l c src).1.1.nbits ∧
          ((t.lookupFrom P k l c src).1.1.nbits ≤ c.nbits ∨ (t.lookupFrom P k l c src).1.1.nbits ≤ len + 7)) ∧
      ∀ missing, (t.lookupFrom P k l c src).2 = .short missing → (t.lookupFrom P k l c src).1.2 = []
  | 0, l, c, src => ⟨.refl c src, fun _ _ h => (by cases h), fun _ h => by cases h⟩
  | k + 1, l, c, src => by
    have hrefill := Bc.refills_need l src c
    have hminimal := Bc.need_minimal l c src
    rw [Table.lookupFrom]
    split
    · rename_i hshort
      exact ⟨hrefill, fun _ _ h => (by cases h), fun _ _ => Bc.need_short_src hshort⟩
    · rename_i henough
      split
      · refine ⟨hrefill, fun _ _ h => ?_, fun _ h => by cases h⟩
        cases h
        exact ⟨Nat.le_refl l, Nat.not_lt.mp henough, hminimal⟩
      · obtain ⟨hrest, hfound, hempty⟩ := t.lookupFrom_refills P k (l + 1) (Bc.need l c src).1 (Bc.need l c src).2
        refine ⟨hrefill.trans hrest, fun symbol len h => ?_, hempty⟩
        obtain ⟨hle, hpending, hmost⟩ := hfound symbol len h
        exact ⟨by omega, hpending, by omega⟩

end Sys2Proof.Machine
end

section

namespace Sys2Proof.Machine

/-! ### What a micro-step does from any state (R300, R301, R392)

No invariant is needed to say what a micro-step does to the ports and the counters, what a starved one leaves, and
which errors it raises. -/

/-- The channel has been refilled from the source; nothing else has happened (R148). -/
structure State.Refills (s t : State) : Prop where
  same   : t = { s with bc := t.bc, port := { s.port with src := t.port.src } }
  refill : Bc.Refills s.bc s.port.src (t.bc, t.port.src)

/-- The refill that took the whole source and still fell short (R301). -/
structure State.Starved (s t : State) : Prop where
  refills : s.Refills t
  empty   : t.port.src = []

/-- Bytes have left the source, and bits of them may have been consumed; nothing else has happened. -/
structure State.Draws (s t : State) : Prop where
  same   : t = { s with bc := t.bc, port := { s.port with src := t.port.src } }
  source : ∃ k, k ≤ s.port.src.length ∧ t.port.src = s.port.src.drop k ∧ t.bc.nbytes = s.bc.nbytes + k ∧
    t.bc.total + t.bc.nbits = s.bc.total + s.bc.nbits + 8 * k

/-- The counts of a decode session are those of its ports (R303, R346). -/
structure State.Counts (s t : State) : Prop where
  source : ∃ k, k ≤ s.port.src.length ∧ t.port.src = s.port.src.drop k ∧ t.bc.nbytes = s.bc.nbytes + k ∧
    t.bc.total + t.bc.nbits = s.bc.total + s.bc.nbits + 8 * k
  sink   : ∃ out : List Byte, t.port.sink = s.port.sink ++ out ∧ t.bk.outTotal = s.bk.outTotal + out.length ∧
    t.sw.cursor = s.sw.cursor + out.length
  others : t.mf = s.mf ∧ t.bk.last = s.bk.last ∧ t.bk.inTotal = s.bk.inTotal ∧ t.bk.blkStart = s.bk.blkStart

/-- Nothing has been delivered. -/
structure State.Quiet (s t : State) : Prop where
  counts : s.Counts t
  sink   : t.port.sink = s.port.sink
  sw     : t.sw = s.sw

/-- The channel, the ports, the window, the MatchFinder and the counters are the same. -/
structure State.Still (s t : State) : Prop where
  bc       : t.bc = s.bc
  port     : t.port = s.port
  sw       : t.sw = s.sw
  mf       : t.mf = s.mf
  counters : t.bk.last = s.bk.last ∧ t.bk.inTotal = s.bk.inTotal ∧ t.bk.blkStart = s.bk.blkStart ∧
    t.bk.outTotal = s.bk.outTotal

/-- What a completed micro-step does: it delivers at most a byte, and its refills were minimal. -/
structure State.Moves (s t : State) : Prop where
  counts  : s.Counts t
  pending : s.bc.nbits < 8 → t.bc.nbits < 8
  one     : t.bk.outTotal ≤ s.bk.outTotal + 1

/-- The phase is one of the decoder's, and a length symbol it is about to use is one (R24, R321). -/
structure State.Going (s : State) : Prop where
  phase  : s.bk.phase.decoding = true ∨ s.bk.phase = .done
  lenSym : s.bk.phase = .lenExtra → s.bk.lenSym ≤ 285

section
variable {s t u : State}

theorem State.Refills.draws (h : s.Refills t) : s.Draws t := by
  obtain ⟨hsame, htotal, ⟨k, hk, hsrc, hnbits, hnbytes⟩, -⟩ := h
  dsimp only at htotal hnbits
  exact ⟨hsame, k, hk, hsrc, hnbytes, by omega⟩

theorem State.Refills.trans (h : s.Refills t) (h' : t.Refills u) : s.Refills u :=
  ⟨by rw [h'.same, h.same], h.refill.trans h'.refill⟩

theorem State.Starved.trans (h : s.Refills t) (h' : t.Starved u) : s.Starved u := ⟨h.trans h'.refills, h'.empty⟩

theorem State.Draws.trans (h : s.Draws t) (h' : t.Draws u) : s.Draws u := by
  obtain ⟨hsame, k, hk, hsrc, hnbytes, hbits⟩ := h
  obtain ⟨hsame', k', hk', hsrc', hnbytes', hbits'⟩ := h'
  rw [hsrc, List.length_drop] at hk'
  rw [hsrc, List.drop_drop] at hsrc'
  exact ⟨by rw [hsame', hsame], k + k', by omega, hsrc', by omega, by omega⟩

theorem State.draws_skip {n : Nat} (hn : n ≤ s.bc.nbits) : s.Draws (s.skip n) :=
  ⟨rfl, 0, Nat.zero_le _, rfl, rfl, by simp only [State.skip, Bc.skip]; omega⟩

theorem State.Draws.bk (h : s.Draws t) : t.bk = s.bk := by rw [h.same]

theorem State.Draws.quiet (h : s.Draws t) : s.Quiet t := by
  obtain ⟨hsame, hsource⟩ := h
  refine ⟨⟨hsource, ⟨[], ?_, ?_, ?_⟩, ?_⟩, ?_, ?_⟩ <;> rw [hsame]
  · exact (List.append_nil _).symm
  · rfl
  · rfl
  · exact ⟨rfl, rfl, rfl, rfl⟩

theorem State.Counts.trans (h : s.Counts t) (h' : t.Counts u) : s.Counts u := by
  obtain ⟨⟨k, hk, hsrc, hnbytes, hbits⟩, ⟨out, hsink, hout, hcursor⟩, hmf, hlast, hin, hstart⟩ := h
  obtain ⟨⟨k', hk', hsrc', hnbytes', hbits'⟩, ⟨out', hsink', hout', hcursor'⟩, hmf', hlast', hin', hstart'⟩ := h'
  rw [hsrc, List.length_drop] at hk'
  rw [hsrc, List.drop_drop] at hsrc'
  rw [hsink, List.append_assoc] at hsink'
  exact ⟨⟨k + k', by omega, hsrc', by omega, by omega⟩,
    ⟨out ++ out', hsink', by rw [List.length_append]; omega, by rw [List.length_append]; omega⟩,
    hmf'.trans hmf, hlast'.trans hlast, hin'.trans hin, hstart'.trans hstart⟩

theorem State.Quiet.trans (h : s.Quiet t) (h' : t.Quiet u) : s.Quiet u :=
  ⟨h.counts.trans h'.counts, h'.sink.trans h.sink, h'.sw.trans h.sw⟩

theorem State.Still.trans (h : s.Still t) (h' : t.Still u) : s.Still u := by
  obtain ⟨hlast, hin, hstart, hout⟩ := h.counters
  obtain ⟨hlast', hin', hstart', hout'⟩ := h'.counters
  exact ⟨h'.bc.trans h.bc, h'.port.trans h.port, h'.sw.trans h.sw, h'.mf.trans h.mf,
    hlast'.trans hlast, hin'.trans hin, hstart'.trans hstart, hout'.trans hout⟩

theorem State.Still.quiet (h : s.Still t) : s.Quiet t := by
  obtain ⟨hbc, hport, hsw, hmf, hlast, hin, hstart, hout⟩ := h
  refine ⟨⟨⟨0, Nat.zero_le _, ?_, ?_, ?_⟩, ⟨[], ?_, hout, ?_⟩, hmf, hlast, hin, hstart⟩, ?_, hsw⟩
  · rw [hport, List.drop_zero]
  · rw [hbc, Nat.add_zero]
  · rw [hbc]; rfl
  · rw [hport, List.append_nil]
  · rw [hsw]; rfl
  · rw [hport]

theorem State.Still.moves (h : s.Still t) : s.Moves t :=
  ⟨h.quiet.counts, fun hpending => h.bc ▸ hpending, Nat.le_succ_of_le (Nat.le_of_eq h.counters.2.2.2)⟩

theorem State.Moves.after (h : s.Draws t) (hpending : s.bc.nbits < 8 → t.bc.nbits < 8) (h' : t.Moves u) :
    s.Moves u :=
  ⟨h.quiet.counts.trans h'.counts, h'.pending ∘ hpending, h.bk ▸ h'.one⟩

theorem State.moves_out (s : State) (b : Byte) : s.Moves (s.out b) :=
  ⟨⟨⟨0, Nat.zero_le _, rfl, rfl, rfl⟩, ⟨[b], rfl, rfl, rfl⟩, rfl, rfl, rfl, rfl⟩, id, Nat.le_refl _⟩

theorem State.Moves.still (h : s.Moves t) (h' : t.Still u) : s.Moves u :=
  ⟨h.counts.trans h'.quiet.counts, fun hpending => h'.bc ▸ h.pending hpending, h'.counters.2.2.2 ▸ h.one⟩

theorem State.moves_skip {n : Nat} (hn : n ≤ s.bc.nbits) : s.Moves (s.skip n) :=
  ⟨(State.draws_skip hn).quiet.counts, fun hpending => Nat.lt_of_le_of_lt (Nat.sub_le _ _) hpending, Nat.le_succ _⟩

theorem State.Going.of_bk (h : s.Going) (hbk : t.bk = s.bk) : t.Going := ⟨hbk ▸ h.phase, hbk ▸ h.lenSym⟩

theorem State.still_putBuilt (s : State) (k : Nat) (b : Built) : s.Still (s.putBuilt k b) :=
  ⟨by simp, by simp, by simp, by simp, by simp⟩

theorem State.still_discard (s : State) (k : Nat) : s.Still (s.discard k) :=
  ⟨by simp, by simp, by simp, by simp, by simp⟩

theorem State.endBlock_still (s : State) : s.Still s.endBlock := by
  obtain ⟨hbc, hport, hsw, hmf, hbk⟩ := s.endBlock_keeps
  exact ⟨hbc, hport, hsw, hmf, by rw [hbk]; exact ⟨rfl, rfl, rfl, rfl⟩⟩

theorem State.endBlock_going (s : State) : s.endBlock.Going := by
  obtain ⟨-, -, -, -, hbk⟩ := s.endBlock_keeps
  constructor <;> rw [hbk] <;> cases s.bk.final
  · exact .inl rfl
  · exact .inr rfl
  · exact fun h => by cases h
  · exact fun h => by cases h

end

/-! ### The pieces of a micro-step -/

/-- What a piece of a micro-step can end in: `Res.Post`, with the fault in view. -/
inductive Res.Spec {α : Type} (done : α → State → Prop) (held : State → Prop) (raised : Raised → State → Prop) :
    Res α → Prop
  | done {a : α} {s : State} : done a s → Res.Spec done held raised (.ok a s)
  | held {s : State} : held s → Res.Spec done held raised (.hold s)
  | raised {f : Raised} {s : State} : raised f s → Res.Spec done held raised (.raise f s)

/-- How a micro-step or a piece of one ends short of being done: it is starved, held or faulted by the end mark, or it
raises an error of the stream after delivering nothing (R301, R372, R392). -/
abbrev State.Pays {α : Type} (s : State) (done : α → State → Prop) (r : Res α) : Prop :=
  r.Spec done (fun t => s.Starved t ∧ s.bk.last = false) fun f t => s.Quiet t ∧ f.kind ≠ .configMisuse ∧
    (f.kind = .unexpectedEndOfInput → s.Starved t ∧ s.bk.last = true)

/-- How what follows the reading of a micro-step ends (R300): it needs no more bits. -/
abbrev State.Acts (s : State) (r : Res Unit) : Prop :=
  r.Spec (fun _ t => s.Moves t ∧ t.Going) (fun _ => False) fun f t => s.Quiet t ∧ f.kind ≠ .configMisuse ∧
    f.kind ≠ .unexpectedEndOfInput

/-- How a micro-step ends (R300, R301, R392). -/
abbrev State.Steps (s : State) (r : Res Unit) : Prop := s.Pays (fun _ t => s.Moves t ∧ t.Going) r

section
variable {s t : State} {α : Type}

theorem State.Acts.steps {r : Res Unit} (h : s.Acts r) : s.Steps r := by
  cases h with
  | done h => exact .done h
  | held h => exact h.elim
  | raised h => exact .raised ⟨h.1, h.2.1, fun hkind => absurd hkind h.2.2⟩

/-- A micro-step that reads, then acts. -/
theorem State.Pays.andThen {done : α → State → Prop} {r : Res α} {k : α → State → Res Unit}
    (h : s.Pays (fun a t => (s.Draws t ∧ (s.bc.nbits < 8 → t.bc.nbits < 8)) ∧ done a t) r)
    (hk : ∀ a t, t.bk = s.bk → done a t → t.Acts (k a t)) : s.Steps (r.andThen k) := by
  cases h with
  | held h => exact .held h
  | raised h => exact .raised h
  | done h =>
    obtain ⟨⟨hdraws, hpending⟩, hdone⟩ := h
    have hacts := hk _ _ hdraws.bk hdone
    rw [Res.andThen]
    generalize k _ _ = r at hacts
    cases hacts with
    | done h => exact .done ⟨.after hdraws hpending h.1, h.2⟩
    | held h => exact h.elim
    | raised h => exact .raised ⟨hdraws.quiet.trans h.1, h.2.1, fun hkind => absurd hkind h.2.2⟩

/-- What follows the reading writes registers and goes on. -/
theorem State.acts_ok (hstill : s.Still t := by exact ⟨rfl, rfl, rfl, rfl, rfl, rfl, rfl, rfl⟩)
    (hgoing : t.Going := by exact ⟨.inl rfl, nofun⟩) : s.Acts (.ok () t) := .done ⟨hstill.moves, hgoing⟩

/-- What follows the reading raises an error of the stream. -/
theorem State.acts_raise {f : Raised} (hstill : s.Still t := by exact ⟨rfl, rfl, rfl, rfl, rfl, rfl, rfl, rfl⟩)
    (hkind : f.kind ≠ .configMisuse ∧ f.kind ≠ .unexpectedEndOfInput := by exact ⟨nofun, nofun⟩) :
    s.Acts (.raise f t) := .raised ⟨hstill.quiet, hkind⟩

theorem State.starve_pays {missing : Nat} {done : α → State → Prop} (h : s.Starved t) :
    s.Pays done (t.starve missing : Res α) := by
  have hlast : t.bk.last = s.bk.last := by rw [h.refills.same]
  rcases t.starve_cases (α := α) missing with ⟨hmarked, heq⟩ | ⟨hmarked, heq⟩ <;> rw [heq] <;> rw [hlast] at hmarked
  · exact .raised ⟨h.refills.draws.quiet, (nofun), fun _ => ⟨h, hmarked⟩⟩
  · exact .held ⟨h, hmarked⟩

theorem State.refills_setChannel {r : Bc × List Byte} (h : Bc.Refills s.bc s.port.src r) : s.Refills (s.setChannel r) :=
  ⟨rfl, h⟩

/-- `n` bits are pending, and no byte was taken that they did not need (R148). -/
abbrev State.Holds (s t : State) (n : Nat) : Prop :=
  s.Refills t ∧ n ≤ t.bc.nbits ∧ (t.bc.nbits ≤ s.bc.nbits ∨ t.bc.nbits ≤ n + 7)

theorem State.Holds.skip {n : Nat} (h : s.Holds t n) :
    s.Draws (t.skip n) ∧ (s.bc.nbits < 8 → (t.skip n).bc.nbits < 8) := by
  obtain ⟨hrefills, henough, hmost⟩ := h
  refine ⟨hrefills.draws.trans (State.draws_skip henough), fun hpending => ?_⟩
  show t.bc.nbits - n < 8
  omega

variable (P : Config.Params)

theorem State.need_pays (s : State) (n : Nat) : s.Pays (fun _ t => s.Holds t n) (s.need n) := by
  have hrefills := State.refills_setChannel (Bc.refills_need n s.port.src s.bc)
  rw [State.need]
  split
  · rename_i hshort
    exact State.starve_pays ⟨hrefills, Bc.need_short_src hshort⟩
  · rename_i henough
    exact .done ⟨hrefills, Nat.not_lt.mp henough, Bc.need_minimal n s.bc s.port.src⟩

theorem State.peek_pays (s : State) (n : Nat) : s.Pays (fun _ t => s.Holds t n) (s.peek P n) := by
  have h := s.need_pays n
  rw [State.peek]
  generalize s.need n = r at h
  cases h with
  | done h => exact .done h
  | held h => exact .held h
  | raised h => exact .raised h

theorem State.read_pays (s : State) (n : Nat) :
    s.Pays (fun _ t => (s.Draws t ∧ (s.bc.nbits < 8 → t.bc.nbits < 8)) ∧ True) (s.read P n) := by
  have h := s.peek_pays P n
  rw [State.read]
  generalize s.peek P n = r at h
  cases h with
  | done h => exact .done ⟨h.skip, trivial⟩
  | held h => exact .held h
  | raised h => exact .raised h

theorem State.lookup_pays (s : State) (slot : Nat) : s.Pays (fun sl t => s.Holds t sl.2) (s.lookup P slot) := by
  obtain ⟨hrefill, hfound, hshort⟩ := (s.table slot).lookupFrom_refills P (s.table slot).maxlen 1 s.bc s.port.src
  have hrefills := State.refills_setChannel hrefill
  rw [State.lookup]
  split
  · rename_i symbol length hlook
    obtain ⟨-, henough, hmost⟩ := hfound symbol length hlook
    exact .done ⟨hrefills, henough, hmost⟩
  · rename_i missing hlook
    exact State.starve_pays ⟨hrefills, hshort missing hlook⟩
  · exact .raised ⟨hrefills.draws.quiet, (nofun), (nofun)⟩

theorem State.decodeSym_pays (s : State) (slot : Nat) :
    s.Pays (fun _ t => (s.Draws t ∧ (s.bc.nbits < 8 → t.bc.nbits < 8)) ∧ True) (s.decodeSym P slot) := by
  have h := s.lookup_pays P slot
  rw [State.decodeSym]
  generalize s.lookup P slot = r at h
  cases h with
  | done h => exact .done ⟨h.skip, trivial⟩
  | held h => exact .held h
  | raised h => exact .raised h

/-- A construction moves no bit; it may fail. -/
theorem State.buildLen_acts (h : s.Still t) (slot n limit : Nat) {k : Unit → State → Res Unit}
    (hk : ∀ u, s.Still u → s.Acts (k () u)) : s.Acts ((t.buildLen slot n limit).andThen k) := by
  rw [State.buildLen]
  cases Machine.buildLen limit (t.stagedArray n) with
  | table _ => exact hk _ (h.trans (t.still_putBuilt _ _))
  | failed info => exact State.acts_raise (h.trans (t.still_putBuilt _ _))

/-- A peek for more bits, after a refill for fewer (R221, R314). -/
theorem State.Holds.peek_steps {m n : Nat} (h : s.Holds t m) (hmn : m ≤ n) {k : Nat → State → Res Unit}
    (hk : ∀ w u, s.Holds u n → s.Steps (k w u)) : s.Steps ((t.peek P n).andThen k) := by
  obtain ⟨hrefills, -, hmost⟩ := h
  have hlast : t.bk.last = s.bk.last := by rw [hrefills.same]
  have hpeek := t.peek_pays P n
  generalize t.peek P n = r at hpeek
  cases hpeek with
  | held hu => exact .held ⟨.trans hrefills hu.1, hlast ▸ hu.2⟩
  | raised hu =>
    exact .raised ⟨hrefills.draws.quiet.trans hu.1, hu.2.1, fun hkind =>
      ⟨.trans hrefills (hu.2.2 hkind).1, hlast ▸ (hu.2.2 hkind).2⟩⟩
  | done hu =>
    obtain ⟨hrefills', henough, hmost'⟩ := hu
    exact hk _ _ ⟨hrefills.trans hrefills', henough, by omega⟩

end

end Sys2Proof.Machine
end

section

namespace Sys2Proof.Machine

/-! ### Every micro-step (R305 to R327) -/

section
variable (P : Config.Params) {s : State}

theorem stepHeader_steps : s.Steps (stepHeader P s) := by
  refine (s.read_pays P 3).andThen fun h t _ _ => ?_
  dsimp only
  split
  · exact .done ⟨(State.moves_skip (Nat.mod_le t.bc.nbits 8)).still ⟨rfl, rfl, rfl, rfl, rfl, rfl, rfl, rfl⟩,
      .inl rfl, nofun⟩
  split
  · exact State.acts_ok
  split
  · exact State.acts_ok
  · exact State.acts_raise

theorem stepStoredLen_steps : s.Steps (stepStoredLen P s) := by
  refine (s.read_pays P 32).andThen fun w t _ _ => ?_
  split
  · exact State.acts_raise
  · exact State.acts_ok

/-- The phase stays one in which no length symbol is in use. -/
theorem State.Going.of_phase {t : State} {p : Phase} (h : t.bk.phase = p) (hp : p.decoding = true)
    (hne : p ≠ .lenExtra := by decide) : t.Going := ⟨.inl (h ▸ hp), fun h' => absurd (h.symm.trans h') hne⟩

theorem stepStoredCopy_steps (hp : s.bk.phase = .storedCopy) : s.Steps (stepStoredCopy P s) := by
  rw [stepStoredCopy]
  split
  · exact .done ⟨s.endBlock_still.moves, s.endBlock_going⟩
  · refine (s.read_pays P 8).andThen fun b t hbk _ => ?_
    rw [← hbk] at hp
    exact .done ⟨(t.moves_out (BitVec.ofNat 8 b)).still ⟨rfl, rfl, rfl, rfl, rfl, rfl, rfl, rfl⟩,
      .of_phase hp rfl⟩

theorem stepDynHdr_steps : s.Steps (stepDynHdr P s) := by
  refine (s.read_pays P 14).andThen fun w t _ _ => ?_
  dsimp only
  split
  · exact State.acts_raise
  · exact State.acts_ok

theorem stepDynCl_steps (hp : s.bk.phase = .dynCl) : s.Steps (stepDynCl P s) := by
  refine (s.read_pays P 3).andThen fun v t hbk _ => ?_
  rw [← hbk] at hp
  dsimp only
  split
  · refine State.buildLen_acts ?_ 2 19 7 fun u hu => ?_
    · exact ⟨rfl, rfl, rfl, rfl, rfl, rfl, rfl, rfl⟩
    · exact State.acts_ok (hu.trans ⟨rfl, rfl, rfl, rfl, rfl, rfl, rfl, rfl⟩)
  · exact State.acts_ok (hgoing := .of_phase hp rfl)

theorem stepDynDone_acts : s.Acts (stepDynDone s) := by
  refine State.buildLen_acts ⟨rfl, rfl, rfl, rfl, rfl, rfl, rfl, rfl⟩ 0 s.bk.nlit 15 fun t ht => ?_
  refine State.buildLen_acts ?_ 1 t.bk.ndist 15 fun u hu => ?_
  · exact ht.trans ⟨rfl, rfl, rfl, rfl, rfl, rfl, rfl, rfl⟩
  · exact State.acts_ok ((hu.trans (u.still_discard 2)).trans ⟨rfl, rfl, rfl, rfl, rfl, rfl, rfl, rfl⟩)

/-- The symbol and the extra bits of a code length are at hand together before either is consumed (R314). -/
theorem stepDynLens_steps (hp : s.bk.phase = .dynLens) : s.Steps (stepDynLens P s) := by
  rw [stepDynLens]
  split
  · exact stepDynDone_acts.steps
  · have hlookup := s.lookup_pays P 2
    generalize s.lookup P 2 = r at hlookup
    cases hlookup with
    | held h => exact .held h
    | raised h => exact .raised h
    | @done sl t h =>
      refine h.peek_steps P (Nat.le_add_right sl.2 (clExtra sl.1)) fun w u hu => ?_
      have hphase : u.bk.phase = .dynLens := by rw [hu.1.same, hp]
      obtain ⟨hskip, hpending⟩ := hu.skip
      split
      · exact .raised ⟨hu.1.draws.quiet, nofun, nofun⟩
      · split
        · exact .raised ⟨hu.1.draws.quiet, nofun, nofun⟩
        · refine .done ⟨.after hskip hpending (State.Still.moves ⟨rfl, rfl, rfl, rfl, rfl, rfl, rfl, rfl⟩), ?_⟩
          exact .of_phase hphase rfl

theorem stepSymbol_steps (hp : s.bk.phase = .symbol) : s.Steps (stepSymbol P s) := by
  refine (s.decodeSym_pays P s.litSlot).andThen fun sym t hbk _ => ?_
  rw [← hbk] at hp
  split
  · exact .done ⟨t.moves_out _, .of_phase hp rfl⟩
  split
  · exact .done ⟨t.endBlock_still.moves, t.endBlock_going⟩
  split
  · rename_i hsym
    exact State.acts_ok (hgoing := ⟨.inl rfl, fun _ => hsym⟩)
  · exact State.acts_raise

theorem stepLenExtra_steps : s.Steps (stepLenExtra P s) :=
  (s.read_pays P (lextra (s.bk.lenSym - 257))).andThen fun _ _ _ _ => State.acts_ok

theorem stepDistSym_steps : s.Steps (stepDistSym P s) := by
  refine (s.decodeSym_pays P s.distSlot).andThen fun j t _ _ => ?_
  split
  · exact State.acts_raise
  · exact State.acts_ok

theorem stepDistExtra_steps : s.Steps (stepDistExtra P s) := by
  refine (s.read_pays P (dextra s.bk.distSym)).andThen fun e t _ _ => ?_
  dsimp only
  split
  · exact State.acts_raise
  · exact State.acts_ok

theorem stepCopy_acts (hp : s.bk.phase = .copy) : s.Acts (stepCopy s) := by
  rw [stepCopy]
  split
  · exact State.acts_ok
  · split
    · exact State.acts_raise
    · exact .done ⟨(s.moves_out _).still ⟨rfl, rfl, rfl, rfl, rfl, rfl, rfl, rfl⟩, .of_phase hp rfl⟩

/-- How every micro-step ends (R300, R301, R392). -/
theorem microStep_steps {r : Res Unit} (h : microStep P s = some r) : s.Steps r := by
  unfold microStep at h
  cases hp : s.bk.phase <;> simp only [hp, Option.some.injEq, reduceCtorEq] at h <;> subst h
  case header => exact stepHeader_steps P
  case storedLen => exact stepStoredLen_steps P
  case storedCopy => exact stepStoredCopy_steps P hp
  case dynHdr => exact stepDynHdr_steps P
  case dynCl => exact stepDynCl_steps P hp
  case dynLens => exact stepDynLens_steps P hp
  case symbol => exact stepSymbol_steps P hp
  case lenExtra => exact stepLenExtra_steps P
  case distSym => exact stepDistSym_steps P
  case distExtra => exact stepDistExtra_steps P
  case copy => exact (stepCopy_acts hp).steps

end

end Sys2Proof.Machine
end

section

namespace Sys2Proof.Machine

/-! ### A micro-step that cannot get its bits (R301, R344, R392) -/

/-- What a starved micro-step leaves: every byte of the source is pending, and nothing else has changed. -/
theorem State.Starved.leaves {s u : State} (h : s.Starved u) :
    u = { s with bc := u.bc, port := { s.port with src := [] } } ∧ u.bc.total = s.bc.total ∧
      u.bc.nbytes = s.bc.nbytes + s.port.src.length ∧ u.bc.nbits = s.bc.nbits + 8 * s.port.src.length ∧
      (s.bc.Wf → u.bc.acc = BitVec.ofNat 64 s.upcoming) := by
  obtain ⟨⟨hsame, htotal, ⟨k, hk, hsrc, hnbits, hnbytes⟩, hbits⟩, hempty⟩ := h
  dsimp only at hsrc hnbits hnbytes
  obtain rfl : k = s.port.src.length := by
    have := List.drop_eq_nil_iff.mp (hsrc.symm.trans hempty)
    omega
  refine ⟨by rw [hempty] at hsame; exact hsame, htotal, hnbytes, hnbits, fun hwf => ?_⟩
  obtain ⟨-, hmod⟩ := hbits ((acc_shift_eq_zero _ _).mp hwf.1)
  have hall : u.bc.upcoming u.port.src = u.bc.acc.toNat := by rw [hempty, Bc.upcoming, streamValue, Nat.mul_zero]; rfl
  apply BitVec.eq_of_toNat_eq
  rw [BitVec.toNat_ofNat, ← Nat.mod_eq_of_lt u.bc.acc.isLt, ← hall]
  exact hmod

/-- Settles O56: a micro-step that holds or lacks its input is starved (`microStep_steps`), of whatever state. -/
theorem heldStepConsumesNothing : Obligations.HeldStepConsumesNothing := by
  intro P s u h
  rcases h with hhold | ⟨f, hkind, hraise⟩
  · cases microStep_steps P hhold with
    | held h =>
      obtain ⟨hsame, htotal, hnbytes, hnbits, hacc⟩ := h.1.leaves
      exact ⟨hsame, htotal, hnbytes, hnbits, hacc, iff_of_true hhold h.2⟩
  · cases microStep_steps P hraise with
    | raised h =>
      obtain ⟨hstarved, hlast⟩ := h.2.2 hkind
      obtain ⟨hsame, htotal, hnbytes, hnbits, hacc⟩ := hstarved.leaves
      exact ⟨hsame, htotal, hnbytes, hnbits, hacc, iff_of_false (by simp [hraise]) (by simp [hlast])⟩

end Sys2Proof.Machine
end

section

namespace Sys2Proof.Machine

/-! ### The engine follows the micro-steps (R300, R431) -/

section
variable {s t u : State}

theorem microStep_moves (h : microStep params s = some (.ok () t)) : s.Moves t ∧ t.Going := by
  cases microStep_steps params h with
  | done h => exact h

theorem State.InDecode.going (hs : s.InDecode) : s.Going := by
  refine ⟨hs.phase, fun hphase => ?_⟩
  have hranges := hs.ranges
  rw [hphase] at hranges
  exact hranges.2.2

/-- `microStep_fuel`, of any state whose length symbol is one. -/
theorem State.Going.fuel (hs : s.Going) (h : microStep params s = some (.ok () t)) : t.engineFuel < s.engineFuel := by
  have hlenSym := hs.lenSym
  rw [State.engineFuel.eq_1 s, State.phaseWeight, Nat.lt_succ_iff]
  cases hphase : s.bk.phase <;> simp only [microStep, hphase, Option.some.injEq, reduceCtorEq] at h
  case header => exact stepHeader_fuel h
  case storedLen => exact stepStoredLen_fuel h
  case storedCopy => exact stepStoredCopy_fuel hphase h
  case dynHdr => exact stepDynHdr_fuel h
  case dynCl => exact stepDynCl_fuel hphase h
  case dynLens => exact stepDynLens_fuel hphase h
  case symbol => exact stepSymbol_fuel hphase h
  case lenExtra => exact stepLenExtra_fuel (hlenSym hphase) h
  case distSym => exact stepDistSym_fuel h
  case distExtra => exact stepDistExtra_fuel h
  case copy => exact stepCopy_fuel hphase h

/-- What completed micro-steps in turn do: no more bytes are delivered than the bound on them falls. -/
structure State.Moved (s u : State) : Prop where
  going   : u.Going
  counts  : s.Counts u
  pending : s.bc.nbits < 8 → u.bc.nbits < 8
  bound   : u.bk.outTotal + u.engineFuel ≤ s.bk.outTotal + s.engineFuel
  host    : s.SameHost u

theorem State.Runs.moved (h : s.Runs u) : s.Going → s.Moved u := by
  induction h with
  | refl s => exact fun hs => ⟨hs, (State.Still.quiet ⟨rfl, rfl, rfl, rfl, rfl, rfl, rfl, rfl⟩).counts, id,
      Nat.le_refl _, .refl s⟩
  | @step s t u hstep _ ih =>
    intro hs
    obtain ⟨⟨hcounts, hpending, hone⟩, ht⟩ := microStep_moves hstep
    have hfuel := hs.fuel hstep
    obtain ⟨hu, hcounts', hpending', hbound, hhost⟩ := ih ht
    refine ⟨hu, hcounts.trans hcounts', hpending' ∘ hpending, by omega, ?_⟩
    cases microStep_host params s hstep with
    | done h => exact State.SameHost.trans h hhost

/-- How the engine stops in a state (R300, R392). -/
inductive State.Stops (outCap : Option Nat) (out0 : Nat) (u : State) : EngineEnd → Prop
  | finished : u.bk.phase = .done → State.Stops outCap out0 u (.status .finished u)
  | full : u.bk.phase.producing = true → u.capReached outCap out0 = true →
      State.Stops outCap out0 u (.status .haveOutput u)
  | held {t : State} : microStep params u = some (.hold t) → State.Stops outCap out0 u (.status .needMoreInput t)
  | raised {f : Raised} {t : State} : microStep params u = some (.raise f t) → State.Stops outCap out0 u (.raised f t)

theorem State.Going.microStep_ne_none (hs : s.Going) (hopen : ¬s.bk.phase = .done) : microStep params s ≠ none := by
  obtain ⟨hphase | hphase, -⟩ := hs
  · rw [microStep]
    cases hp : s.bk.phase <;> simp [hp, Phase.decoding] at hphase ⊢
  · exact absurd hphase hopen

/-- The engine completes micro-steps until it stops: its bound is never reached (R300, R431). -/
theorem State.Going.decLoop (outCap : Option Nat) (out0 : Nat) : ∀ (fuel : Nat) {s : State}, s.Going →
    s.engineFuel ≤ fuel → ∃ u, s.Runs u ∧ u.Stops outCap out0 (Machine.decLoop params outCap out0 fuel s)
  | 0, s, _, hfuel => by
    rw [State.engineFuel] at hfuel
    omega
  | fuel + 1, s, hs, hfuel => by
    rw [Machine.decLoop]
    split
    · exact ⟨s, .refl s, .finished ‹_›⟩
    rename_i hopen
    split
    · rename_i hfull
      rw [Bool.and_eq_true] at hfull
      exact ⟨s, .refl s, .full hfull.1 hfull.2⟩
    · split
      · rename_i hnone
        exact absurd hnone (hs.microStep_ne_none hopen)
      · rename_i t hstep
        have hless := hs.fuel hstep
        obtain ⟨u, hruns, hstops⟩ := State.Going.decLoop outCap out0 fuel (microStep_moves hstep).2 (by omega)
        exact ⟨u, .step hstep hruns, hstops⟩
      · rename_i hstep
        exact ⟨s, .refl s, .held hstep⟩
      · rename_i hstep
        exact ⟨s, .refl s, .raised hstep⟩

theorem State.Going.decEngine (hs : s.Going) (outCap : Option Nat) :
    ∃ u, s.Runs u ∧ u.Stops outCap s.bk.outTotal (s.decEngine params outCap) :=
  State.Going.decLoop outCap s.bk.outTotal s.engineFuel hs (Nat.le_refl _)

/-- The start of a decode session, and the end mark (R343, R344, R346). -/
theorem State.going_startDecode (s : State) : (s.startSession params .decode 0).Going := ⟨.inl rfl, nofun⟩

theorem State.Going.markLast (hs : s.Going) (last : Bool) : (s.markLast last).Going := ⟨hs.phase, hs.lenSym⟩

end

/-! ### No command stops in a named fault (R334, R431) -/

/-- A command is answered, or refused for a counter. -/
abbrev Settled (o : Host.Outcome State Fault Refusal) : Prop := (∃ t, o = .next t) ∨ o = .refused .counterOverflow

section
variable {s : State}

theorem settled_next (t : State) : Settled (.next t) := .inl ⟨t, rfl⟩

theorem settled_finish (t : State) : Settled t.finish := t.finish_cases.imp (fun h => ⟨t, h⟩) id

theorem Settled.ite {c : Prop} [Decidable c] {a b : Host.Outcome State Fault Refusal} (ha : Settled a)
    (hb : Settled b) : Settled (if c then a else b) := by
  split
  · exact ha
  · exact hb

theorem feedDecode_settled (hs : s.Going) (last : Bool) (outCap : Nat) : Settled (s.feedDecode params last outCap) := by
  obtain ⟨u, -, hstops⟩ := (hs.markLast last).decEngine (some outCap)
  rw [State.feedDecode]
  dsimp only
  generalize (s.markLast last).decEngine params (some outCap) = e at hstops
  cases hstops <;> exact settled_finish _

theorem execBkDecompress_settled (s : State) : Settled (execBkDecompress s) := by
  obtain ⟨u, -, hstops⟩ := (s.going_startDecode.markLast true).decEngine none
  rw [execBkDecompress]
  dsimp only
  generalize ((s.startSession params .decode 0).markLast true).decEngine params none = e at hstops
  cases hstops <;> exact settled_finish _

theorem feedEncode_settled (last : Bool) (outCap : Nat) : Settled (s.feedEncode params last outCap) := by
  rw [State.feedEncode]
  refine .ite ?_ (settled_finish _)
  dsimp only
  split <;> exact settled_finish _

theorem execBkFeed_settled (hs : s.Inv) (last : Bool) (outCap : Word) : Settled (execBkFeed last outCap s) := by
  rw [execBkFeed]
  split
  · rename_i hopen
    rw [State.sessionOpen, Phase.isOpen_eq, Bool.or_eq_true] at hopen
    split
    · rename_i hdir
      rcases hopen with hphase | hphase
      · exact feedDecode_settled (hs.inDecode hphase).going last _
      · have hdir' := (hs.encodes hphase).1
        rw [hdir] at hdir'
        cases hdir'
    · exact feedEncode_settled last _
  · exact settled_next _

theorem answerBuilt_settled (s : State) (slot : Nat) (b : Built) : Settled (s.answerBuilt slot b) := by
  cases b <;> exact settled_next _

/-- Every command settles; only `BK_FEED` needs the invariant. -/
theorem exec_settled (hs : s.Inv) (i : Instr) : Settled (exec i s) := by
  cases i with
  | regRead _ =>
    rw [exec, execRegRead]
    split <;> exact settled_next _
  | coreReset => exact settled_next _
  | bcInit _ _ => exact .ite (settled_next _) (settled_next _)
  | bcWriteBits _ _ => exact .ite (settled_next _) (settled_finish _)
  | bcReadBits _ => exact .ite (settled_next _) (.ite (settled_finish _) (settled_finish _))
  | bcPeekBits _ => exact .ite (settled_next _) (.ite (settled_finish _) (settled_finish _))
  | bcAlign =>
    refine .ite (settled_next _) ?_
    split
    · exact .ite (settled_next _) (settled_finish _)
    · exact settled_finish _
  | bcFlush => exact .ite (settled_next _) (settled_finish _)
  | bcClose => exact .ite (settled_next _) (settled_finish _)
  | swInit _ => exact .ite (settled_next _) (.ite (settled_next _) (settled_next _))
  | swPush _ => exact .ite (settled_next _) (settled_finish _)
  | swGet _ =>
    refine .ite (settled_next _) ?_
    split <;> exact settled_next _
  | swCopy _ _ => exact .ite (settled_next _) (.ite (settled_finish _) (settled_next _))
  | hcStage _ _ => exact .ite (settled_next _) (settled_next _)
  | hcBuildFreq _ _ _ | hcBuildLen _ _ _ =>
    exact .ite (settled_next _) (answerBuilt_settled _ _ _)
  | hcEncode _ _ => exact .ite (settled_next _) (.ite (settled_next _) (settled_next _))
  | hcDecode _ =>
    refine .ite (settled_next _) ?_
    split <;> exact settled_finish _
  | hcDiscard _ => exact .ite (settled_next _) (settled_next _)
  | mfInit _ => exact .ite (settled_next _) (.ite (settled_next _) (settled_next _))
  | mfRun _ => exact .ite (settled_next _) (settled_finish _)
  | mfToken _ =>
    refine .ite (settled_next _) ?_
    split <;> exact settled_next _
  | bkInit _ _ => exact .ite (settled_next _) (settled_next _)
  | bkCompress _ =>
    refine .ite (settled_next _) ?_
    dsimp only
    split <;> exact settled_finish _
  | bkDecompress => exact execBkDecompress_settled s
  | bkFeed last outCap => exact execBkFeed_settled hs last outCap

end

/-- Settles O12: a decode session's engine always stops (`State.Going.decLoop`), and nothing else could fault. -/
theorem stepNeverFaults : Obligations.StepNeverFaults := by
  intro s hs
  have hscript : ∀ l, (s.setScript l).Inv := fun l =>
    (State.Keeps.answered (t := s.setScript l) hs rfl rfl rfl rfl rfl).inv
  rw [step]
  split
  · exact settled_next _
  · exact settled_next _
  · exact settled_next _
  · split
    · exact exec_settled (hscript _) _
    · exact settled_next _

end Sys2Proof.Machine
end

section

namespace Sys2Proof.Machine

/-! ### `BK_DECOMPRESS` of any source (R331, R334, R350) -/

/-- The state the engine of a `BK_DECOMPRESS` starts from (R350). -/
abbrev State.decompressStart (s : State) : State := (s.startSession params .decode 0).markLast true

section
variable {s u v : State} {f : Raised}

theorem microStep_raises (h : microStep params u = some (.raise f v)) : u.Quiet v ∧ f.kind ≠ .configMisuse := by
  cases microStep_steps params h with
  | raised h => exact ⟨h.1, h.2.1⟩

/-- An error of the stream has one of the numbers 1 to 5 (R94). -/
theorem ErrKind.code_stream {k : ErrKind} (h : k ≠ .configMisuse) : 1 ≤ k.code.toNat ∧ k.code.toNat ≤ 5 := by
  cases k with
  | configMisuse => exact absurd rfl h
  | _ => decide

/-- With the end marked and no limit the engine ends with the stream or in an error (R350). -/
theorem State.Going.decEngine_marked (hs : s.Going) (hlast : s.bk.last = true) : ∃ u, s.Runs u ∧
    (u.bk.phase = .done ∧ s.decEngine params none = .status .finished u ∨
      ∃ f v, microStep params u = some (.raise f v) ∧ s.decEngine params none = .raised f v) := by
  obtain ⟨u, hruns, hstops⟩ := hs.decEngine none
  refine ⟨u, hruns, ?_⟩
  generalize s.decEngine params none = e at hstops
  cases hstops with
  | finished hdone => exact .inl ⟨hdone, rfl⟩
  | full _ hfull => cases hfull
  | raised hraise => exact .inr ⟨_, _, hraise, rfl⟩
  | held hhold =>
    cases microStep_steps params hhold with
    | held h =>
      have hmarked := (hruns.moved hs).counts.others.2.1
      rw [hlast, h.2] at hmarked
      cases hmarked

theorem State.countersFit_closeFaulted (s : State) : s.closeFaulted.countersFit = s.countersFit := by
  rw [Bool.eq_iff_iff, State.countersFit_iff, State.countersFit_iff]
  simp [State.closeFaulted, State.forget]

/-- What an engine run of a `BK_DECOMPRESS` has done to the ports and the counters (R350). -/
structure State.Decompressed (s v : State) (taken : Nat) (out : List Byte) : Prop where
  taken_le : taken ≤ s.port.src.length
  source   : v.port.src = s.port.src.drop taken
  sink     : v.port.sink = s.port.sink ++ out
  outTotal : v.bk.outTotal = out.length
  nbytes   : v.bc.nbytes = taken
  bits     : v.bc.total + v.bc.nbits = 8 * taken
  fit      : taken < 2 ^ 60 → out.length < 2 ^ 64 → v.setIn.countersFit = true

theorem State.Counts.decompressed (hfit : s.countersFit = true) (h : s.decompressStart.Counts v) :
    ∃ taken out, s.Decompressed v taken out := by
  have hport : s.decompressStart.port = s.port := s.startSession_port params .decode 0
  have hfit0 : s.decompressStart.countersFit = true := s.startSession_countersFit .decode 0 hfit
  have hbc : s.decompressStart.bc = Bc.init .read .lsbFirst := rfl
  have hout0 : s.decompressStart.bk.outTotal = 0 ∧ s.decompressStart.sw.cursor = 0 := ⟨rfl, rfl⟩
  generalize s.decompressStart = s0 at *
  obtain ⟨⟨k, hk, hsrc, hnbytes, hbits⟩, ⟨out, hsink, hout, hcursor⟩, hmf, -, -, hstart⟩ := h
  rw [hport] at hk hsrc hsink
  rw [hbc] at hnbytes hbits
  rw [hout0.1, Nat.zero_add] at hout
  rw [hout0.2, Nat.zero_add] at hcursor
  replace hnbytes : v.bc.nbytes = k := hnbytes.trans (Nat.zero_add k)
  replace hbits : v.bc.total + v.bc.nbits = 8 * k := hbits.trans (Nat.zero_add _)
  refine ⟨k, out, hk, hsrc, hsink, hout, hnbytes, hbits, fun htaken hproduced => ?_⟩
  obtain ⟨-, -, -, hpos, hknown, -, -, hblk, htok⟩ := (State.countersFit_iff s0).mp hfit0
  rw [State.countersFit_iff]
  show v.bc.total < 2 ^ 64 ∧ v.bc.nbytes < 2 ^ 64 ∧ v.sw.cursor < 2 ^ 64 ∧ v.mf.pos < 2 ^ 64 ∧
    v.mf.input.length < 2 ^ 64 ∧ v.bc.nbytes < 2 ^ 64 ∧ v.bk.outTotal < 2 ^ 64 ∧ v.bk.blkStart < 2 ^ 64 ∧
    v.mf.tok.length < 2 ^ 32
  rw [hmf, hstart, hcursor, hout, hnbytes]
  exact ⟨by omega, by omega, hproduced, hpos, hknown, by omega, hproduced, hblk, htok⟩

/-- The answer of a `BK_DECOMPRESS` whose stream ended (R350). -/
theorem exec_bkDecompress_finished {taken : Nat} {out : List Byte}
    (hengine : s.decompressStart.decEngine params none = .status .finished u) (h : s.Decompressed u taken out)
    (htaken : taken < 2 ^ 60) (hout : out.length < 2 ^ 64) :
    exec .bkDecompress s = .next (u.setIn.closeFinished.ok taken out.length) := by
  have hfit := (State.countersFit_closeFinished u.setIn).trans (h.fit htaken hout)
  rw [exec, execBkDecompress, hengine, ← h.nbytes, ← h.outTotal]
  exact State.finish_of_fit hfit

/-- The answer of a `BK_DECOMPRESS` whose stream has an error (R348, R350). -/
theorem exec_bkDecompress_faulted {taken : Nat} {out : List Byte}
    (hengine : s.decompressStart.decEngine params none = .raised f v) (h : s.Decompressed v taken out)
    (htaken : taken < 2 ^ 60) (hout : out.length < 2 ^ 64) :
    exec .bkDecompress s = .next (v.setIn.closeFaulted.raiseCounts f taken out.length) := by
  have hfit := (State.countersFit_closeFaulted v.setIn).trans (h.fit htaken hout)
  rw [exec, execBkDecompress, hengine, ← h.nbytes, ← h.outTotal]
  exact State.finish_of_fit hfit

end

/-- Settles O57: the engine ends with the stream or in an error of it (`State.Going.decEngine_marked`), and delivers no
more bytes than its bound on micro-steps. -/
theorem bkDecompressContract : Obligations.BkDecompressContract := by
  intro s hfit hsrc
  have hgoing : s.decompressStart.Going := s.going_startDecode.markLast true
  have hresponses : s.decompressStart.port.responses = s.port.responses := by
    rw [show s.decompressStart.port = s.port from s.startSession_port params .decode 0]
  have hbound : s.decompressStart.bk.outTotal + s.decompressStart.engineFuel = 300 * (8 * s.port.src.length) + 2 := by
    show 0 + (300 * (0 + 8 * (s.startSession params .decode 0).port.src.length) + 1 + 1) = _
    rw [State.startSession_port]
    omega
  obtain ⟨u, hruns, hend⟩ := hgoing.decEngine_marked rfl
  obtain ⟨-, hcounts, hpending, hmost, -, hresponses', -⟩ := hruns.moved hgoing
  have hpending : u.bc.nbits < 8 := hpending (by show 0 < 8; decide)
  have hout_le : u.bk.outTotal < 2 ^ 60 := by omega
  rcases hend with ⟨hdone, hengine⟩ | ⟨f, v, hraise, hengine⟩
  · obtain ⟨taken, out, h⟩ := State.Counts.decompressed hfit hcounts
    have hexec := exec_bkDecompress_finished hengine h (by have := h.taken_le; omega) (by have := h.outTotal; omega)
    exact ⟨_, _, taken, out, hexec, congrArg (· ++ [_]) (hresponses'.trans hresponses), rfl, h.taken_le, h.source,
      h.sink, rfl, rfl, h.nbytes, h.outTotal, h.nbytes, .inl ⟨rfl, rfl, by
        show taken = (u.bc.total + 7) / 8
        have := h.bits
        omega⟩⟩
  · obtain ⟨hquiet, hkind⟩ := microStep_raises hraise
    obtain ⟨hlow, hhigh⟩ := ErrKind.code_stream hkind
    obtain ⟨taken, out, h⟩ := State.Counts.decompressed hfit (hcounts.trans hquiet.counts)
    obtain ⟨out', hout', hproduced, -⟩ := hquiet.counts.sink
    have hnone : out' = [] := by
      rw [hquiet.sink] at hout'
      exact List.append_right_eq_self.mp hout'.symm
    rw [hnone, List.length_nil, Nat.add_zero] at hproduced
    have hhost : v.port.responses = u.port.responses := by
      cases microStep_host params u hraise with
      | raised h => exact h.2.1
    have hexec := exec_bkDecompress_faulted hengine h (by have := h.taken_le; omega) (by have := h.outTotal; omega)
    exact ⟨_, _, taken, out, hexec, congrArg (· ++ [_]) (hhost.trans (hresponses'.trans hresponses)), rfl, h.taken_le,
      h.source, h.sink, rfl, rfl, h.nbytes, h.outTotal, h.nbytes, .inr ⟨hlow, hhigh, rfl, rfl⟩⟩

end Sys2Proof.Machine
end

section

namespace Sys2Proof.Machine

/-! ### A field or a code that is at hand (R104, R147, R148, R221) -/

/-- A table that can be used: valid, with the invariant, complete (R34). -/
abbrev Table.Usable (t : Table) : Prop := t.valid = true ∧ t.Wf ∧ t.Complete

section
variable {s : State} {n : Nat} (hs : s.bc.Reading)
include hs

theorem State.peek_eq (hn : n ≤ 32) (havail : n ≤ s.available) :
    s.peek params n = .ok (s.upcoming % 2 ^ n) (s.afterFetch n) := by
  rw [State.peek_ok hs hn havail, Bc.need_eq_fetched hn _ _ hs.1 hs.2 havail]
  rfl

theorem State.read_eq (hn : n ≤ 32) (havail : n ≤ s.available) :
    s.read params n = .ok (s.upcoming % 2 ^ n) (s.afterField n) := by
  rw [State.read, State.peek_eq hs hn havail]
  rfl

/-- The bits up to the byte boundary go with the field before them (R157, R305). -/
theorem State.afterField_alignRead (n : Nat) :
    { s.afterField n with bc := (s.afterField n).bc.alignRead } =
      s.afterField (n + (8 - (s.bc.total + n) % 8) % 8) := by
  obtain ⟨-, hbytes, -⟩ := (Bc.wf_read_iff hs.2).mp hs.1
  have hfetches : s.bc.fetches (n + (8 - (s.bc.total + n) % 8) % 8) = s.bc.fetches n := by
    simp only [Bc.fetches]
    omega
  have hpartial : (s.bc.nbits + 8 * s.bc.fetches n - n) % 8 = (8 - (s.bc.total + n) % 8) % 8 := by
    simp only [Bc.fetches]
    omega
  simp only [State.afterField, State.afterFetch, Bc.alignRead, Bc.partialBits, Bc.skip, hfetches, hpartial,
    BitVec.shiftRight_add, Nat.sub_sub, Nat.add_assoc]

section
variable {k symbol extra : Nat} (ht : (s.table k).Usable) (hnext : s.comesNext k symbol extra)
include ht hnext

/-- The look-up of the symbol that comes next (R221). -/
theorem State.lookup_eq : (s.table k).len.getD symbol 0 ≤ 15 ∧
    s.lookup params k = .ok (symbol, (s.table k).len.getD symbol 0)
      (s.afterFetch ((s.table k).len.getD symbol 0)) := by
  obtain ⟨hvalid, hwf, hcomplete⟩ := ht
  obtain ⟨hsymbol, h0, havail, hcode⟩ := hnext
  obtain ⟨h15, hlookup⟩ := Table.lookup_code hvalid hwf hcomplete hsymbol rfl h0 hs.1 hs.2
    (Nat.le_trans (Nat.le_add_right _ extra) havail) (State.upcoming_eq s ▸ hcode)
  refine ⟨h15, ?_⟩
  rw [State.lookup, hlookup, Bc.need_eq_fetched (by omega) _ _ hs.1 hs.2 (by omega)]
  rfl

theorem State.decodeSym_eq :
    s.decodeSym params k = .ok symbol (s.afterField ((s.table k).len.getD symbol 0)) := by
  rw [State.decodeSym, (State.lookup_eq hs ht hnext).2]
  rfl

end

/-- A peek for more bits than were fetched already. -/
theorem State.afterFetch_peek {m : Nat} (hmn : m ≤ n) (hn : n ≤ 32) (havail : n ≤ s.available) :
    (s.afterFetch m).peek params n = .ok (s.upcoming % 2 ^ n) (s.afterFetch n) := by
  have hm : m ≤ 32 := Nat.le_trans hmn hn
  have hfetch : s.afterFetch m = s.setChannel (Bc.need m s.bc s.port.src) := by
    rw [Bc.need_eq_fetched hm _ _ hs.1 hs.2 (Nat.le_trans hmn havail)]
    rfl
  have hreads := Bc.reads_need hm s.bc s.port.src
  have hremain := Bc.need_available m s.bc s.port.src
  have hupcoming : (s.setChannel (Bc.need m s.bc s.port.src)).upcoming = s.upcoming :=
    Bc.upcoming_need hm s.port.src s.bc hs.1 hs.2
  have hneed : Bc.need n (s.setChannel (Bc.need m s.bc s.port.src)).bc
      (s.setChannel (Bc.need m s.bc s.port.src)).port.src = Bc.need n s.bc s.port.src :=
    Bc.need_need_of_le hmn s.port.src s.bc
  have hpeek := State.peek_ok (s := s.setChannel (Bc.need m s.bc s.port.src))
    ⟨hreads.wf hs.1 hs.2, hreads.mode.trans hs.2⟩ hn (Nat.le_trans havail (Nat.le_of_eq hremain.symm))
  rw [hfetch, hpeek, hupcoming, hneed, Bc.need_eq_fetched hn _ _ hs.1 hs.2 havail]
  rfl

end

theorem State.afterBlock_eq (s : State) : s.endBlock = s.afterBlock := by
  rw [State.endBlock, State.afterBlock]
  split <;> rfl

theorem Table.Inverts.usable {t enc : Table} (h : t.Inverts enc) : t.Usable := ⟨h.valid, h.wf, h.complete⟩

/-- The tables of the block in progress can be used (R302). -/
theorem State.tables_usable {s : State} (hs : s.Inv)
    (hcomplete : ∀ k, k < 3 → (s.table k).valid = true → (s.table k).Complete) (hphase : s.bk.phase.usesTables = true) :
    (s.table s.litSlot).Usable ∧ (s.table s.distSlot).Usable := by
  obtain ⟨h0, h1, -⟩ := hs.slots
  rcases hs.decoder.tables hphase with hkind | ⟨hkind, hvalid0, hvalid1⟩
  · rw [State.litSlot, State.distSlot, if_pos hkind, if_pos hkind]
    exact ⟨fixedLit_inverts.usable, fixedDist_inverts.usable⟩
  · have hdynamic : ¬s.bk.kind = 1 := by rw [hkind]; decide
    rw [State.litSlot, State.distSlot, if_neg hdynamic, if_neg hdynamic]
    exact ⟨⟨hvalid0, h0, hcomplete 0 (by decide) hvalid0⟩, ⟨hvalid1, h1, hcomplete 1 (by decide) hvalid1⟩⟩

end Sys2Proof.Machine
end

section

namespace Sys2Proof.Machine

/-! ### The micro-steps whose bits are at hand (R305 to R327) -/

section
variable {s : State} (hs : s.bc.Reading)
include hs

theorem microStep_header (hphase : s.bk.phase = .header) (havail : 3 ≤ s.available) :
    let h := s.upcoming % 2 ^ 3
    let bk : Bk := { s.bk with final := h % 2 == 1, kind := BitVec.ofNat 2 (h / 2) }
    microStep params s = some
      (if h / 2 = 0 then
        .ok () { s.afterField (3 + (8 - (s.bc.total + 3) % 8) % 8) with bk := { bk with phase := .storedLen } }
      else if h / 2 = 1 then .ok () { s.afterField 3 with bk := { bk with phase := .symbol } }
      else if h / 2 = 2 then .ok () { s.afterField 3 with bk := { bk with phase := .dynHdr } }
      else .raise { kind := .invalidCode, unit := 5, info := 3 } { s.afterField 3 with bk := bk }) := by
  intro h bk
  rw [← State.afterField_alignRead hs 3, microStep, hphase]
  dsimp only
  rw [stepHeader, State.read_eq hs (by decide) havail]
  rfl

theorem microStep_storedLen (hphase : s.bk.phase = .storedLen) (havail : 32 ≤ s.available) :
    let w := s.upcoming % 2 ^ 32
    microStep params s = some
      (if w / 2 ^ 16 + w % 2 ^ 16 = 2 ^ 16 - 1 then
        .ok () { s.afterField 32 with bk := { s.bk with storedRem := w % 2 ^ 16, phase := .storedCopy } }
      else .raise { kind := .invalidStoredLength, unit := 5, info := w } (s.afterField 32)) := by
  intro w
  have hnot : w % 2 ^ 16 ^^^ 0xFFFF = 65535 - w % 2 ^ 16 := xor_65535 (Nat.mod_lt _ (by decide))
  rw [microStep, hphase]
  dsimp only
  rw [stepStoredLen, State.read_eq hs (by decide) havail, Res.andThen, hnot]
  by_cases hsum : w / 2 ^ 16 + w % 2 ^ 16 = 2 ^ 16 - 1
  · rw [if_pos hsum, if_neg (by omega)]
    rfl
  · rw [if_neg hsum, if_pos (by omega)]
    rfl

omit hs in
theorem microStep_storedEnd (hphase : s.bk.phase = .storedCopy) (hrem : s.bk.storedRem = 0) :
    microStep params s = some (.ok () s.afterBlock) := by
  rw [microStep, hphase]
  dsimp only
  rw [stepStoredCopy, if_pos hrem, State.afterBlock_eq]

theorem microStep_storedCopy (hphase : s.bk.phase = .storedCopy) (hrem : s.bk.storedRem ≠ 0) (havail : 8 ≤ s.available) :
    let u := (s.afterField 8).afterByte (BitVec.ofNat 8 (s.upcoming % 2 ^ 8))
    microStep params s = some (.ok () { u with bk := { u.bk with storedRem := s.bk.storedRem - 1 } }) := by
  rw [microStep, hphase]
  dsimp only
  rw [stepStoredCopy, if_neg hrem, State.read_eq hs (by decide) havail]
  rfl

theorem microStep_dynHdr (hphase : s.bk.phase = .dynHdr) (havail : 14 ≤ s.available) :
    let w := s.upcoming % 2 ^ 14
    let u : State := { s.afterField 14 with
      bk := { s.bk with nlit := w % 32 + 257, ndist := w / 32 % 32 + 1, ncl := w / 1024 + 4 } }
    microStep params s = some
      (if 30 ≤ w % 32 ∨ 30 ≤ w / 32 % 32 then .raise { kind := .tableConstructionFailed, unit := 5, info := w } u
      else .ok () { u.stage 0 (List.replicate 19 0) with bk := { u.bk with idx := 0, phase := .dynCl } }) := by
  intro w u
  have hncl : w / 2 ^ 10 % 2 ^ 4 = w / 1024 :=
    Nat.mod_eq_of_lt (by have : w < 2 ^ 14 := Nat.mod_lt _ (by decide); omega)
  rw [microStep, hphase]
  dsimp only
  rw [stepDynHdr, State.read_eq hs (by decide) havail, Res.andThen]
  dsimp only
  rw [show s.upcoming % 2 ^ 14 = w from rfl, hncl]
  refine congrArg some (if_congr ?_ rfl rfl)
  simp only [Bool.or_eq_true, decide_eq_true_eq]
  omega

end

section
variable {s : State} (hs : s.Inv)
include hs

theorem State.Inv.reading (hphase : s.bk.phase.decoding = true) : s.bc.Reading :=
  ⟨hs.channel, (hs.decodes hphase).2.1⟩

theorem microStep_dynCl (hphase : s.bk.phase = .dynCl) (havail : 3 ≤ s.available) :
    let cell := [16, 17, 18, 0, 8, 7, 9, 6, 10, 5, 11, 4, 12, 3, 13, 2, 14, 1, 15].getD s.bk.idx 0
    let u := { (s.afterField 3).stage cell [s.upcoming % 2 ^ 3] with bk := { s.bk with idx := s.bk.idx + 1 } }
    microStep params s = some
      (if s.bk.idx + 1 < s.bk.ncl then .ok () u
      else
        match buildLen 7 (u.stagedArray 19) with
        | .table t => .ok () { u.setTable 2 t with bk := { u.bk with idx := 0, phase := .dynLens } }
        | .failed info => .raise { kind := .tableConstructionFailed, unit := 3, info := info }
            (u.setTable 2 { u.hc.slot2 with valid := false })) := by
  intro cell u
  have hread := State.read_eq (hs.reading (by rw [hphase]; rfl)) (n := 3) (by decide) havail
  obtain ⟨hidx, -⟩ := hs.decoder.clIndex hphase
  have hmicro : microStep params s = some (stepDynCl params s) := by rw [microStep, hphase]
  have hstored : (s.afterField 3).storeCl (s.upcoming % 2 ^ 3) = u := rfl
  rw [hmicro, stepDynCl_of_read hread, hstored, afterField_bk]
  by_cases hmore : s.bk.idx + 1 < s.bk.ncl
  · rw [if_pos hmore, if_neg (by omega)]
  · rw [if_neg hmore, if_pos (by omega), State.buildLen]
    cases Machine.buildLen 7 (u.stagedArray 19) <;> rfl

omit hs in
theorem microStep_dynEnd (hphase : s.bk.phase = .dynLens) (hidx : s.bk.idx = s.bk.nlit + s.bk.ndist) :
    microStep params s = some
      (match buildLen 15 (s.stagedArray s.bk.nlit) with
      | .failed info => .raise { kind := .tableConstructionFailed, unit := 3, info := info }
          (s.setTable 0 { s.hc.slot0 with valid := false })
      | .table t0 =>
        let u := (s.setTable 0 t0).stage 0 ((List.range s.bk.ndist).map fun i => s.staged (s.bk.nlit + i))
        match buildLen 15 (u.stagedArray s.bk.ndist) with
        | .failed info => .raise { kind := .tableConstructionFailed, unit := 3, info := info }
            (u.setTable 1 { u.hc.slot1 with valid := false })
        | .table t1 => .ok () { (u.setTable 1 t1).setTable 2 { u.hc.slot2 with valid := false } with
            bk := { s.bk with phase := .symbol } }) := by
  have hmicro : microStep params s = some (stepDynLens params s) := by rw [microStep, hphase]
  rw [hmicro, stepDynLens, if_pos hidx, stepDynDone, State.buildLen]
  cases Machine.buildLen 15 (s.stagedArray s.bk.nlit) with
  | failed info => rfl
  | table t0 =>
    change some (Res.andThen (State.buildLen ((s.setTable 0 t0).stage 0
      ((List.range s.bk.ndist).map fun i => s.staged (s.bk.nlit + i))) 1 s.bk.ndist 15) _) = _
    rw [State.buildLen]
    dsimp only
    generalize hu : (s.setTable 0 t0).stage 0 ((List.range s.bk.ndist).map fun i => s.staged (s.bk.nlit + i)) = u
    have hbk : s.bk = u.bk := by rw [← hu]; rfl
    rw [hbk]
    cases Machine.buildLen 15 (u.stagedArray u.bk.ndist) <;> rfl

omit hs in
theorem lengthBucket_eq {i : Nat} (h : i ≤ 28) : lengthBucket i = (lbase i, lextra i) := by
  rw [lengthBucket, lbase, lextra]
  interval_cases i <;> rfl

omit hs in
theorem distanceBucket_eq {j : Nat} (h : j < 30) : distanceBucket j = (dbase j, dextra j) := by
  rw [distanceBucket, dbase, dextra]
  interval_cases j <;> rfl

theorem microStep_lenExtra (hphase : s.bk.phase = .lenExtra) :
    let bucket := lengthBucket (s.bk.lenSym - 257)
    bucket.2 ≤ s.available →
    microStep params s = some (.ok () { s.afterField bucket.2 with
      bk := { s.bk with length := bucket.1 + s.upcoming % 2 ^ bucket.2, phase := .distSym } }) := by
  intro bucket havail
  obtain ⟨-, hhigh⟩ := hs.decoder.lenSym hphase
  have hbucket : bucket = (lbase (s.bk.lenSym - 257), lextra (s.bk.lenSym - 257)) := lengthBucket_eq (by omega)
  have hmicro : microStep params s = some (stepLenExtra params s) := by rw [microStep, hphase]
  rw [hbucket] at havail ⊢
  dsimp only at havail ⊢
  have hfew : lextra (s.bk.lenSym - 257) ≤ 32 := Nat.le_trans (lextra_le _) (by decide)
  have hread := State.read_eq (hs.reading (by rw [hphase]; rfl)) hfew havail
  rw [hmicro, stepLenExtra, hread]
  rfl

theorem microStep_distExtra (hphase : s.bk.phase = .distExtra) :
    let bucket := distanceBucket s.bk.distSym
    let d := bucket.1 + s.upcoming % 2 ^ bucket.2
    bucket.2 ≤ s.available →
    microStep params s = some
      (if min s.sw.cursor 32768 < d then
        .raise { kind := .invalidDistance, unit := 5, info := d } (s.afterField bucket.2)
      else .ok () { s.afterField bucket.2 with
        bk := { s.bk with dist := d, copyRem := s.bk.length, phase := .copy } }) := by
  intro bucket d havail
  have hbucket : bucket = (dbase s.bk.distSym, dextra s.bk.distSym) := distanceBucket_eq (hs.decoder.distSym hphase)
  have hmicro : microStep params s = some (stepDistExtra params s) := by rw [microStep, hphase]
  rw [hmicro, stepDistExtra]
  simp only [d]
  rw [hbucket] at havail ⊢
  rw [State.read_eq (hs.reading (by rw [hphase]; rfl)) (Nat.le_trans (dextra_le _) (by decide)) havail]
  rfl

theorem microStep_copy (hphase : s.bk.phase = .copy) :
    let u := s.afterByte (s.sw.win.get Config.freeByte ((s.sw.cursor - s.bk.dist) % 32768))
    microStep params s = some (.ok ()
      (if s.bk.copyRem = 0 then { s with bk := { s.bk with phase := .symbol } }
      else { u with bk := { u.bk with copyRem := s.bk.copyRem - 1 } })) := by
  intro u
  obtain ⟨-, hreach⟩ := hs.decoder.copying hphase
  have hcap : s.sw.cap = 32768 := (hs.decodes (by rw [hphase]; rfl)).2.2.2.2.1
  have hbyte : s.sw.get s.bk.dist = some (s.sw.win.get Config.freeByte ((s.sw.cursor - s.bk.dist) % 32768)) := by
    rw [Sw.get, if_pos hreach, Sw.back, hcap]
  have hmicro : microStep params s = some (stepCopy s) := by rw [microStep, hphase]
  rw [hmicro, stepCopy, hbyte]
  split <;> rfl

end

/-! ### The micro-steps that decode a symbol (R314, R320, R323) -/

section
variable {s : State} (hs : s.Inv) (hcomplete : ∀ k, k < 3 → (s.table k).valid = true → (s.table k).Complete)
  {symbol : Nat}
include hs hcomplete

theorem microStep_symbol (hphase : s.bk.phase = .symbol) (hnext : s.comesNext (if s.bk.kind = 1 then 3 else 0) symbol 0) :
    let u := s.afterField ((s.table (if s.bk.kind = 1 then 3 else 0)).len.getD symbol 0)
    microStep params s = some
      (if symbol < 256 then .ok () (u.afterByte (BitVec.ofNat 8 symbol))
      else if symbol = 256 then .ok () u.afterBlock
      else if symbol ≤ 285 then .ok () { u with bk := { u.bk with lenSym := symbol, phase := .lenExtra } }
      else .raise { kind := .invalidCode, unit := 5, info := symbol } u) := by
  intro u
  have htable := (State.tables_usable hs hcomplete (by rw [hphase]; rfl)).1
  have hdecode := State.decodeSym_eq (hs.reading (by rw [hphase]; rfl)) htable hnext
  have hmicro : microStep params s = some (stepSymbol params s) := by rw [microStep, hphase]
  rw [hmicro, stepSymbol, hdecode, ← State.afterBlock_eq]
  rfl

theorem microStep_distSym (hphase : s.bk.phase = .distSym)
    (hnext : s.comesNext (if s.bk.kind = 1 then 4 else 1) symbol 0) :
    let u := s.afterField ((s.table (if s.bk.kind = 1 then 4 else 1)).len.getD symbol 0)
    microStep params s = some
      (if symbol < 30 then .ok () { u with bk := { u.bk with distSym := symbol, phase := .distExtra } }
      else .raise { kind := .invalidCode, unit := 5, info := symbol } u) := by
  intro u
  have htable := (State.tables_usable hs hcomplete (by rw [hphase]; rfl)).2
  have hdecode := State.decodeSym_eq (hs.reading (by rw [hphase]; rfl)) htable hnext
  have hmicro : microStep params s = some (stepDistSym params s) := by rw [microStep, hphase]
  rw [hmicro, stepDistSym, hdecode, Res.andThen]
  by_cases hsymbol : symbol < 30
  · rw [if_pos hsymbol, if_neg (by omega)]
    rfl
  · rw [if_neg hsymbol, if_pos (by omega)]
    rfl

theorem microStep_dynLens (hsymbol : symbol < 19) (hphase : s.bk.phase = .dynLens)
    (hidx : s.bk.idx < s.bk.nlit + s.bk.ndist) :
    let extra := if symbol < 16 then 0 else if symbol = 16 then 2 else if symbol = 17 then 3 else 7
    s.comesNext 2 symbol extra →
    let l := (s.table 2).len.getD symbol 0
    let e := s.upcoming / 2 ^ l % 2 ^ extra
    let run := if symbol < 16 then 1 else if symbol = 18 then 11 + e else 3 + e
    let value := if symbol < 16 then symbol else if symbol = 16 then s.staged (s.bk.idx - 1) else 0
    microStep params s = some
      (if symbol = 16 ∧ s.bk.idx = 0 ∨ s.bk.nlit + s.bk.ndist < s.bk.idx + run then
        .raise { kind := .invalidCode, unit := 5, info := symbol } (s.afterFetch (l + extra))
      else .ok () { (s.afterField (l + extra)).stage s.bk.idx (List.replicate run value) with
        bk := { s.bk with idx := s.bk.idx + run } }) := by
  intro extra hnext l e run value
  obtain ⟨-, hvalid⟩ := hs.decoder.lens hphase
  have hreading := hs.reading (by rw [hphase]; rfl)
  obtain ⟨h15, hlookup⟩ := State.lookup_eq (k := 2) hreading ⟨hvalid, hs.slots.2.2, hcomplete 2 (by decide) hvalid⟩ hnext
  have hextra : clExtra symbol = extra := by
    simp only [clExtra, extra]
    split_ifs <;> omega
  have hfew : extra ≤ 7 := hextra ▸ clExtra_le symbol
  have hpeek := State.afterFetch_peek hreading (m := l) (Nat.le_add_right l extra) (by omega) hnext.2.2.1
  have hdiv : s.upcoming % 2 ^ (l + extra) / 2 ^ l = e := by rw [pow_add, Nat.mod_mul_right_div_self]
  have hrun : clRun (s.afterFetch (l + extra)) symbol e =
      if symbol = 16 ∧ s.bk.idx = 0 then none else some (run, value) := by
    have hsame : clRun (s.afterFetch (l + extra)) symbol e = clRun s symbol e := rfl
    rw [hsame]
    simp only [clRun, run, value]
    grind
  have hmicro : microStep params s = some (stepDynLens params s) := by rw [microStep, hphase]
  rw [hmicro, stepDynLens, if_neg (Nat.ne_of_lt hidx), hlookup, Res.andThen]
  dsimp only
  rw [hextra, hpeek, Res.andThen, hdiv, hrun]
  by_cases hfirst : symbol = 16 ∧ s.bk.idx = 0
  · rw [if_pos hfirst, if_pos (.inl hfirst)]
    rfl
  · have hbk : (s.afterFetch (l + extra)).bk = s.bk := rfl
    rw [if_neg hfirst]
    dsimp only
    rw [hbk]
    by_cases hover : s.bk.nlit + s.bk.ndist < s.bk.idx + run
    · rw [if_pos hover, if_pos (.inr hover)]
      rfl
    · rw [if_neg hover, if_neg (not_or.mpr ⟨hfirst, hover⟩)]
      rfl

end

end Sys2Proof.Machine
end

section

namespace Sys2Proof.Machine

/-! ### The responses given so far do not matter to a micro-step (R93)

The engine of a `BK_DECOMPRESS` starts where a `BK_INIT` ends, but for the response of the latter. -/

/-- The ending of a piece of a micro-step, had a response been given before. -/
def Res.respond {α : Type} (r : Response) : Res α → Res α
  | .ok a s => .ok a (s.respond r)
  | .hold s => .hold (s.respond r)
  | .raise f s => .raise f (s.respond r)

section
variable {α β : Type} (r : Response) (s : State) (P : Config.Params)

theorem Res.andThen_respond {x : Res α} {k k' : α → State → Res β}
    (h : ∀ a t, k' a (t.respond r) = (k a t).respond r) : (x.respond r).andThen k' = (x.andThen k).respond r := by
  cases x with
  | ok a t => exact h a t
  | hold t => rfl
  | raise f t => rfl

theorem State.respond_starve (missing : Nat) : ((s.respond r).starve missing : Res α) = (s.starve missing).respond r := by
  rw [State.starve, State.starve, State.respond_bk]
  split <;> rfl

theorem State.respond_need (n : Nat) : (s.respond r).need n = (s.need n).respond r := by
  have hneed : Bc.need n (s.respond r).bc (s.respond r).port.src = Bc.need n s.bc s.port.src := rfl
  have hset : (s.respond r).setChannel (Bc.need n s.bc s.port.src) =
      (s.setChannel (Bc.need n s.bc s.port.src)).respond r := rfl
  rw [State.need, State.need, hneed, hset]
  generalize s.setChannel (Bc.need n s.bc s.port.src) = u
  rw [State.respond_bc, State.respond_starve]
  split <;> rfl

theorem State.respond_peek (n : Nat) : (s.respond r).peek P n = (s.peek P n).respond r := by
  rw [State.peek, State.respond_need]
  exact Res.andThen_respond r fun _ _ => rfl

theorem State.respond_read (n : Nat) : (s.respond r).read P n = (s.read P n).respond r := by
  rw [State.read, State.respond_peek]
  exact Res.andThen_respond r fun _ _ => rfl

theorem State.respond_lookup (slot : Nat) : (s.respond r).lookup P slot = (s.lookup P slot).respond r := by
  have hlook : ((s.respond r).table slot).lookup P (s.respond r).bc (s.respond r).port.src =
      (s.table slot).lookup P s.bc s.port.src := by
    rw [State.table_congr (State.respond_hc s r) slot]
    rfl
  rw [State.lookup, State.lookup, hlook]
  generalize (s.table slot).lookup P s.bc s.port.src = x
  obtain ⟨c, look⟩ := x
  cases look with
  | found symbol length => rfl
  | short missing => exact State.respond_starve r (s.setChannel c) missing
  | noCode bits => rfl

theorem State.respond_decodeSym (slot : Nat) : (s.respond r).decodeSym P slot = (s.decodeSym P slot).respond r := by
  rw [State.decodeSym, State.respond_lookup]
  exact Res.andThen_respond r fun _ _ => rfl

theorem State.respond_setTable (k : Nat) (t : Table) : (s.respond r).setTable k t = (s.setTable k t).respond r := by
  match k with
  | 0 | 1 | 2 | _ + 3 => rfl

theorem State.respond_discard (k : Nat) : (s.respond r).discard k = (s.discard k).respond r := by
  rw [State.discard, State.respond_setTable, State.table_congr (State.respond_hc s r)]
  rfl

theorem State.respond_buildLen (slot n limit : Nat) :
    (s.respond r).buildLen slot n limit = (s.buildLen slot n limit).respond r := by
  have hstaged : (s.respond r).stagedArray n = s.stagedArray n := rfl
  rw [State.buildLen, State.buildLen, hstaged]
  cases Machine.buildLen limit (s.stagedArray n) with
  | table t => exact congrArg (Res.ok ()) (s.respond_setTable r slot t)
  | failed info => exact congrArg (Res.raise (badTable info)) (s.respond_discard r slot)

theorem State.respond_endBlock : (s.respond r).endBlock = s.endBlock.respond r := by
  rw [State.endBlock, State.endBlock, State.respond_discard, State.respond_discard, State.respond_bk]
  split <;> rfl

theorem stepHeader_respond : stepHeader P (s.respond r) = (stepHeader P s).respond r := by
  rw [stepHeader, State.respond_read]
  refine Res.andThen_respond r fun h t => ?_
  dsimp only
  split_ifs <;> rfl

theorem stepStoredLen_respond : stepStoredLen P (s.respond r) = (stepStoredLen P s).respond r := by
  rw [stepStoredLen, State.respond_read]
  refine Res.andThen_respond r fun w t => ?_
  split_ifs <;> rfl

theorem stepStoredCopy_respond : stepStoredCopy P (s.respond r) = (stepStoredCopy P s).respond r := by
  rw [stepStoredCopy, stepStoredCopy, State.respond_bk, State.respond_read, State.respond_endBlock]
  split
  · rfl
  · exact Res.andThen_respond r fun _ _ => rfl

theorem stepDynHdr_respond : stepDynHdr P (s.respond r) = (stepDynHdr P s).respond r := by
  rw [stepDynHdr, State.respond_read]
  refine Res.andThen_respond r fun w t => ?_
  dsimp only
  split_ifs <;> rfl

theorem stepDynCl_respond : stepDynCl P (s.respond r) = (stepDynCl P s).respond r := by
  rw [stepDynCl, State.respond_read]
  refine Res.andThen_respond r fun v t => ?_
  change (if (t.storeCl v).bk.idx = (t.storeCl v).bk.ncl then (((t.storeCl v).respond r).buildLen 2 19 7).andThen _
    else .ok () ((t.storeCl v).respond r)) = Res.respond r (if (t.storeCl v).bk.idx = (t.storeCl v).bk.ncl then
      ((t.storeCl v).buildLen 2 19 7).andThen _ else .ok () (t.storeCl v))
  rw [State.respond_buildLen]
  split
  · exact Res.andThen_respond r fun _ _ => rfl
  · rfl

theorem stepDynDone_respond : stepDynDone (s.respond r) = (stepDynDone s).respond r := by
  rw [stepDynDone, State.respond_bk, State.respond_buildLen]
  refine Res.andThen_respond r fun _ t => ?_
  refine (congrArg (Res.andThen · _) (State.respond_buildLen r (t.stage 0 _) 1 _ 15)).trans ?_
  refine Res.andThen_respond r fun _ u => ?_
  rw [State.respond_discard]
  rfl

theorem stepDynLens_respond : stepDynLens P (s.respond r) = (stepDynLens P s).respond r := by
  rw [stepDynLens, stepDynLens, State.respond_bk, State.respond_lookup, stepDynDone_respond]
  split
  · rfl
  · refine Res.andThen_respond r fun sl t => ?_
    dsimp only
    rw [State.respond_peek]
    refine Res.andThen_respond r fun w u => ?_
    have hrun : clRun (u.respond r) sl.1 (w / 2 ^ sl.2) = clRun u sl.1 (w / 2 ^ sl.2) := rfl
    rw [hrun, State.respond_bk]
    cases clRun u sl.1 (w / 2 ^ sl.2) with
    | none => rfl
    | some p =>
      dsimp only
      split <;> rfl

theorem stepSymbol_respond : stepSymbol P (s.respond r) = (stepSymbol P s).respond r := by
  have hslot : (s.respond r).litSlot = s.litSlot := rfl
  rw [stepSymbol, hslot, State.respond_decodeSym]
  refine Res.andThen_respond r fun symbol t => ?_
  rw [State.respond_endBlock]
  split_ifs <;> rfl

theorem stepLenExtra_respond : stepLenExtra P (s.respond r) = (stepLenExtra P s).respond r := by
  rw [stepLenExtra, State.respond_bk, State.respond_read]
  exact Res.andThen_respond r fun _ _ => rfl

theorem stepDistSym_respond : stepDistSym P (s.respond r) = (stepDistSym P s).respond r := by
  have hslot : (s.respond r).distSlot = s.distSlot := rfl
  rw [stepDistSym, hslot, State.respond_decodeSym]
  refine Res.andThen_respond r fun j t => ?_
  split_ifs <;> rfl

theorem stepDistExtra_respond : stepDistExtra P (s.respond r) = (stepDistExtra P s).respond r := by
  rw [stepDistExtra, State.respond_bk, State.respond_read]
  refine Res.andThen_respond r fun e t => ?_
  dsimp only
  rw [State.respond_bk, State.respond_sw]
  split_ifs <;> rfl

theorem stepCopy_respond : stepCopy (s.respond r) = (stepCopy s).respond r := by
  rw [stepCopy, stepCopy, State.respond_bk, State.respond_sw]
  split
  · rfl
  · split <;> rfl

end

end Sys2Proof.Machine
end

section

namespace Sys2Proof.Machine

/-! ### The engine runs the micro-steps (R300) -/

section
variable {s t u v : State} {f : Raised} {r : Response}

theorem microStep_respond (r : Response) (s : State) :
    microStep params (s.respond r) = (microStep params s).map (Res.respond r) := by
  rw [microStep, microStep, State.respond_bk]
  cases s.bk.phase
  case header => exact congrArg some (stepHeader_respond r s params)
  case storedLen => exact congrArg some (stepStoredLen_respond r s params)
  case storedCopy => exact congrArg some (stepStoredCopy_respond r s params)
  case dynHdr => exact congrArg some (stepDynHdr_respond r s params)
  case dynCl => exact congrArg some (stepDynCl_respond r s params)
  case dynLens => exact congrArg some (stepDynLens_respond r s params)
  case symbol => exact congrArg some (stepSymbol_respond r s params)
  case lenExtra => exact congrArg some (stepLenExtra_respond r s params)
  case distSym => exact congrArg some (stepDistSym_respond r s params)
  case distExtra => exact congrArg some (stepDistExtra_respond r s params)
  case copy => exact congrArg some (stepCopy_respond r s)
  all_goals rfl

theorem State.Runs.respond (r : Response) (h : s.Runs u) : (s.respond r).Runs (u.respond r) := by
  induction h with
  | refl s => exact .refl _
  | step hstep _ ih => exact .step (by rw [microStep_respond, hstep]; rfl) ih

theorem State.Runs.stepsFrom (h : s.Runs u) : ∃ n, Machine.stepsFrom params n s = some u := by
  induction h with
  | refl s => exact ⟨0, rfl⟩
  | step hstep _ ih =>
    obtain ⟨n, hn⟩ := ih
    exact ⟨n + 1, by rw [Machine.stepsFrom, hstep]; exact hn⟩

/-- What the response `r` and the state `t` after a command say of the state in which its engine stopped. -/
structure State.Reports (u t : State) (r : Response) : Prop where
  sink    : t.port.sink = u.port.sink
  sw      : t.sw = u.sw
  ended   : r.err = 0 → t.bc.total = u.bc.total ∧ t.bk.phase = u.bk.phase
  faulted : r.err ≠ 0 → ∃ (f : Raised) (v : State), microStep params u = some (.raise f v) ∧ t.bc = v.bc ∧
    t.port.src = v.port.src ∧
    t.err = { kind := f.kind.code, unit := BitVec.ofNat 8 f.unit, info := BitVec.ofNat 32 f.info }

theorem State.Reports.respond (q : Response) (h : u.Reports t r) : (u.respond q).Reports t r := by
  refine ⟨h.sink, h.sw, h.ended, fun herr => ?_⟩
  obtain ⟨f, v, hraise, hrest⟩ := h.faulted herr
  exact ⟨f, v.respond q, by rw [microStep_respond, hraise]; rfl, hrest⟩

/-- A command that ends with a fault reports the micro-step that raised it (R348, R386). -/
theorem State.reports_raised (hraise : microStep params u = some (.raise f v)) (hsink : t.port.sink = v.port.sink)
    (hsw : t.sw = v.sw) (hbc : t.bc = v.bc) (hsrc : t.port.src = v.port.src)
    (herr : t.err = { kind := f.kind.code, unit := BitVec.ofNat 8 f.unit, info := BitVec.ofNat 32 f.info })
    (hr : r.err = f.kind.code) : u.Reports t r := by
  obtain ⟨⟨-, hquiet, hwindow⟩, -⟩ := microStep_raises hraise
  exact ⟨hsink.trans hquiet, hsw.trans hwindow, fun h => absurd (hr.symm.trans h) f.kind.code_ne_zero,
    fun _ => ⟨f, v, hraise, hbc, hsrc, herr⟩⟩

/-- The response of a command is the one it has added. -/
theorem responses_added {l l' : List Response} {a b : Response} (h : l' ++ [a] = l ++ [b]) (hl : l' = l) : b = a := by
  subst hl
  simpa using h.symm

theorem feedDecode_reports {last : Bool} {outCap : Nat} (hs : s.Going)
    (h : s.feedDecode params last outCap = .next t) (hr : t.port.responses = s.port.responses ++ [r]) :
    ∃ u, (s.markLast last).Runs u ∧ u.Reports t r := by
  have hgoing := hs.markLast last
  obtain ⟨u, hruns, hstops⟩ := hgoing.decEngine (some outCap)
  obtain ⟨-, hresponses, -⟩ := (hruns.moved hgoing).host
  refine ⟨u, hruns, ?_⟩
  rw [State.feedDecode] at h
  dsimp only at h
  generalize (s.markLast last).decEngine params (some outCap) = e at hstops h
  cases hstops with
  | finished hdone =>
    obtain ⟨-, rfl⟩ := State.finish_next.mp h
    obtain rfl := responses_added hr hresponses
    exact ⟨rfl, rfl, fun _ => ⟨rfl, hdone.symm⟩, fun herr => absurd rfl herr⟩
  | full =>
    obtain ⟨-, rfl⟩ := State.finish_next.mp h
    obtain rfl := responses_added hr hresponses
    exact ⟨rfl, rfl, fun _ => ⟨rfl, rfl⟩, fun herr => absurd rfl herr⟩
  | @held v hhold =>
    obtain ⟨-, rfl⟩ := State.finish_next.mp h
    cases microStep_steps params hhold with
    | held hstarved =>
      obtain ⟨hsame, htotal, -⟩ := hstarved.1.leaves
      have hport : v.port.responses = u.port.responses ∧ v.port.sink = u.port.sink ∧ v.sw = u.sw ∧ v.bk = u.bk := by
        rw [hsame]
        exact ⟨rfl, rfl, rfl, rfl⟩
      obtain ⟨hresponses', hsink, hsw, hbk⟩ := hport
      obtain rfl := responses_added hr (hresponses'.trans hresponses)
      have hphase : v.bk.phase = u.bk.phase := congrArg Bk.phase hbk
      exact ⟨hsink, hsw, fun _ => ⟨htotal, hphase⟩, fun herr => absurd rfl herr⟩
  | raised hraise =>
    obtain ⟨-, rfl⟩ := State.finish_next.mp h
    cases microStep_host params u hraise with
    | raised hhost =>
      obtain rfl := responses_added hr (hhost.2.1.trans hresponses)
      exact State.reports_raised hraise rfl rfl rfl rfl rfl rfl

theorem bkDecompress_reports (h : exec .bkDecompress s = .next t)
    (hr : t.port.responses = s.port.responses ++ [r]) : ∃ u, s.decompressStart.Runs u ∧ u.Reports t r := by
  have hgoing : s.decompressStart.Going := s.going_startDecode.markLast true
  have hport : s.decompressStart.port = s.port := s.startSession_port params .decode 0
  obtain ⟨u, hruns, hend⟩ := hgoing.decEngine_marked rfl
  obtain ⟨-, hresponses, -⟩ := (hruns.moved hgoing).host
  rw [hport] at hresponses
  refine ⟨u, hruns, ?_⟩
  rw [exec, execBkDecompress] at h
  dsimp only at h
  rcases hend with ⟨hdone, hengine⟩ | ⟨f, v, hraise, hengine⟩
  · rw [hengine] at h
    obtain ⟨-, rfl⟩ := State.finish_next.mp h
    obtain rfl := responses_added hr hresponses
    exact ⟨rfl, rfl, fun _ => ⟨rfl, hdone.symm⟩, fun herr => absurd rfl herr⟩
  · rw [hengine] at h
    obtain ⟨-, rfl⟩ := State.finish_next.mp h
    cases microStep_host params u hraise with
    | raised hhost =>
      obtain rfl := responses_added hr (hhost.2.1.trans hresponses)
      exact State.reports_raised hraise rfl rfl rfl rfl rfl rfl

end

/-- The engine of a `BK_FEED` of a decode session, or of a `BK_DECOMPRESS`, starts in `s0` (R346, R350). -/
theorem exec_reports {i : Instr} {s s0 t : State} {r : Response} (hs : s.Inv)
    (hi : (∃ last cap, i = .bkFeed last cap ∧ s.bk.phase.decoding = true ∧
        s0 = { s with bk := { s.bk with last := s.bk.last || last } }) ∨
      (i = .bkDecompress ∧ ∃ s1, exec (.bkInit .decode 0) s = .next s1 ∧
        s0 = { s1 with bk := { s1.bk with last := true } }))
    (h : exec i s = .next t) (hr : t.port.responses = s.port.responses ++ [r]) : ∃ u, s0.Runs u ∧ u.Reports t r := by
  rcases hi with ⟨last, cap, rfl, hphase, rfl⟩ | ⟨rfl, s1, hinit, rfl⟩
  · have hopen : s.sessionOpen = true := by rw [State.sessionOpen, Phase.isOpen_eq, hphase]; rfl
    have hdir : s.bk.dir = .decode := (hs.decodes hphase).1
    rw [exec, execBkFeed, if_pos hopen, hdir] at h
    exact feedDecode_reports (hs.inDecode hphase).going h hr
  · obtain ⟨u, hruns, hreports⟩ := bkDecompress_reports h hr
    have hstart : exec (.bkInit .decode 0) s = .next ((s.startSession params .decode 0).ok 0 0) := rfl
    rw [hstart] at hinit
    cases hinit
    exact ⟨_, hruns.respond { err := 0, aux := 0, r0 := 0, r1 := 0 }, hreports.respond _⟩

/-- Settles O55: each phase's micro-step once its bits are at hand (`microStep_header` to `microStep_copy`), and the
engine's run of them (`State.Going.decLoop`), of which the command reports the last. -/
theorem decoderMicroSteps : Obligations.DecoderMicroSteps := by
  refine ⟨fun s hs hcomplete => ?_, fun i s s0 t r hs hi hexec hr => ?_⟩
  · have hread : s.bk.phase.decoding = true → s.bc.Reading := hs.reading
    exact ⟨fun hphase => microStep_header (hread (by rw [hphase]; rfl)) hphase,
      fun hphase => microStep_storedLen (hread (by rw [hphase]; rfl)) hphase,
      microStep_storedEnd,
      fun hphase => microStep_storedCopy (hread (by rw [hphase]; rfl)) hphase,
      fun hphase => microStep_dynHdr (hread (by rw [hphase]; rfl)) hphase,
      microStep_dynCl hs,
      fun _ => microStep_dynLens hs hcomplete,
      microStep_dynEnd,
      fun _ => microStep_symbol hs hcomplete,
      microStep_lenExtra hs,
      fun _ => microStep_distSym hs hcomplete,
      microStep_distExtra hs,
      microStep_copy hs⟩
  · obtain ⟨u, hruns, hsink, hsw, hended, hfaulted⟩ := exec_reports hs hi hexec hr
    obtain ⟨n, hsteps⟩ := hruns.stepsFrom
    exact ⟨n, u, hsteps, hsink, hsw, hended, hfaulted⟩

end Sys2Proof.Machine
end

section

namespace Sys2Proof.Machine

/-! ### Whole bytes of the source (R305, R308) -/

/-- The channel reads bytes as they stand at the source: LSB-first, no bit pending. -/
structure State.Aligned (s : State) : Prop where
  reading : s.bc.Reading
  order   : s.bc.order = .lsbFirst
  pending : s.bc.nbits = 0

/-- The state once `k` whole bytes have been taken through the channel. -/
def State.afterBytes (s : State) (k : Nat) : State :=
  { s with
    bc := { s.bc with total := s.bc.total + 8 * k, nbytes := s.bc.nbytes + k }
    port := { s.port with src := s.port.src.drop k } }

section
variable {s : State} {n : Nat} {b : Byte} {rest : List Byte}

theorem State.Aligned.acc (hs : s.Aligned) : s.bc.acc = 0 := by
  obtain ⟨hacc, -, -⟩ := (Bc.wf_read_iff hs.reading.2).mp hs.reading.1
  rw [hs.pending] at hacc
  exact BitVec.eq_of_toNat_eq (Nat.lt_one_iff.mp hacc)

theorem State.Aligned.total (hs : s.Aligned) : s.bc.total % 8 = 0 := by
  obtain ⟨-, hbytes, -⟩ := (Bc.wf_read_iff hs.reading.2).mp hs.reading.1
  have := hs.pending
  omega

theorem State.Aligned.upcoming (hs : s.Aligned) : s.upcoming = streamValue .lsbFirst s.port.src := by
  rw [State.upcoming, hs.acc, hs.pending, hs.order]
  simp

theorem State.Aligned.available (hs : s.Aligned) : s.available = 8 * s.port.src.length := by
  rw [State.available, hs.pending, Nat.zero_add]

theorem State.Aligned.setBk (hs : s.Aligned) (b : Bk) : ({ s with bk := b } : State).Aligned :=
  ⟨hs.reading, hs.order, hs.pending⟩

theorem State.Aligned.afterBytes (hs : s.Aligned) (k : Nat) : (s.afterBytes k).Aligned := by
  obtain ⟨hacc, hbytes, hbits⟩ := (Bc.wf_read_iff hs.reading.2).mp hs.reading.1
  refine ⟨⟨(Bc.wf_read_iff (c := (s.afterBytes k).bc) hs.reading.2).mpr ⟨hacc, ?_, hbits⟩, hs.reading.2⟩, hs.order,
    hs.pending⟩
  show (s.bc.nbytes + k) * 8 = s.bc.total + 8 * k + s.bc.nbits
  omega

/-- A field of whole bytes is taken with no bit left over. -/
theorem State.Aligned.afterField (hs : s.Aligned) {k : Nat} (hk : k ≤ 4) (hlength : k ≤ s.port.src.length) :
    s.afterField (8 * k) = s.afterBytes k := by
  have hfetches : s.bc.fetches (8 * k) = k := by
    rw [Bc.fetches, hs.pending]
    omega
  have hvalue := streamValue_lt s.bc.order (s.port.src.take k)
  rw [List.length_take_of_le hlength] at hvalue
  have hacc : BitVec.ofNat 64 (s.bc.acc.toNat + 2 ^ s.bc.nbits * streamValue s.bc.order (s.port.src.take k)) >>>
      (8 * k) = s.bc.acc := by
    rw [hs.acc, hs.pending]
    refine (acc_shift_eq_zero _ _).mpr (Nat.lt_of_le_of_lt (Nat.le_of_eq ?_) hvalue)
    have hword : 2 ^ (8 * k) ≤ 2 ^ 64 := Nat.pow_le_pow_right (by decide) (by omega)
    rw [BitVec.toNat_ofNat, Nat.mod_eq_of_lt (by simp; omega)]
    simp
  have hnbits : s.bc.nbits + 8 * k - 8 * k = s.bc.nbits := Nat.add_sub_cancel _ _
  simp only [State.afterField, State.afterFetch, State.afterBytes, hfetches, hacc, hnbits]

/-! ### Inside a stored block (R308, R309) -/

/-- The state once `n` bytes of a stored block have been copied. -/
def State.copied (s : State) (n : Nat) : State :=
  { s.afterBytes n with
    sw := s.sw.pushAll (s.port.src.take n)
    bk := { s.bk with storedRem := s.bk.storedRem - n, outTotal := s.bk.outTotal + n }
    port := { (s.afterBytes n).port with sink := s.port.sink ++ s.port.src.take n } }

theorem State.copied_zero (s : State) : s.copied 0 = s := by simp [State.copied, State.afterBytes]

theorem State.copied_succ (hsrc : s.port.src = b :: rest) (n : Nat) : (s.copied 1).copied n = s.copied (n + 1) := by
  simp only [State.copied, State.afterBytes, hsrc, List.take_succ_cons, List.take_zero, List.drop_succ_cons,
    List.drop_zero, pushAll_cons, pushAll_nil, List.append_assoc, List.singleton_append, Nat.sub_sub, Nat.add_assoc,
    Nat.mul_succ, Nat.add_comm 1 n, Nat.mul_zero, Nat.zero_add, Nat.add_comm 8]

theorem State.Aligned.copied (hs : s.Aligned) (n : Nat) : (s.copied n).Aligned :=
  ⟨(hs.afterBytes n).reading, hs.order, hs.pending⟩

theorem State.Aligned.microStep_copied (hs : s.Aligned) (hphase : s.bk.phase = .storedCopy) (hrem : s.bk.storedRem ≠ 0)
    (hsrc : s.port.src = b :: rest) : microStep params s = some (.ok () (s.copied 1)) := by
  have hlength : 1 ≤ s.port.src.length := by simp [hsrc]
  have hbyte : BitVec.ofNat 8 (s.upcoming % 2 ^ 8) = b := by
    refine BitVec.eq_of_toNat_eq ?_
    have := b.isLt
    rw [hs.upcoming, hsrc, BitVec.toNat_ofNat, streamValue, passes]
    omega
  have hstep := microStep_storedCopy hs.reading hphase hrem (by rw [hs.available]; omega)
  dsimp only at hstep
  rw [hbyte, show 8 = 8 * 1 from rfl, hs.afterField (by decide) hlength] at hstep
  have hcopied : s.copied 1 = { (s.afterBytes 1).afterByte b with
      bk := { ((s.afterBytes 1).afterByte b).bk with storedRem := s.bk.storedRem - 1 } } := by
    simp [State.copied, State.afterByte, State.afterBytes, hsrc, Sw.push]
  rw [hstep, hcopied]

end

/-- What it takes to copy `n` bytes. -/
structure State.CanCopy (s : State) (n : Nat) : Prop where
  aligned : s.Aligned
  phase   : s.bk.phase = .storedCopy
  block   : n ≤ s.bk.storedRem
  source  : n ≤ s.port.src.length

section
variable {s : State} {n : Nat}

theorem State.CanCopy.step (h : s.CanCopy (n + 1)) : microStep params s = some (.ok () (s.copied 1)) ∧
    (s.copied 1).CanCopy n ∧ (s.copied 1).copied n = s.copied (n + 1) := by
  obtain ⟨haligned, hphase, hblock, hsource⟩ := h
  obtain ⟨b, rest, hsrc⟩ := List.exists_cons_of_length_pos (Nat.lt_of_lt_of_le n.succ_pos hsource)
  refine ⟨haligned.microStep_copied hphase (by omega) hsrc, ⟨haligned.copied 1, hphase, ?_, ?_⟩,
    State.copied_succ hsrc n⟩
  · show n ≤ s.bk.storedRem - 1
    omega
  · show n ≤ (s.port.src.drop 1).length
    rw [List.length_drop]
    omega

theorem State.CanCopy.runs : ∀ {n : Nat} {s : State}, s.CanCopy n → s.Runs (s.copied n)
  | 0, s, _ => by
    rw [State.copied_zero]
    exact .refl s
  | n + 1, s, h => by
    obtain ⟨hstep, hmore, hcopied⟩ := h.step
    rw [← hcopied]
    exact .step hstep hmore.runs

/-- The engine copies while the limit is not reached (R300). -/
theorem State.CanCopy.decLoop {cap out0 : Nat} (fuel : Nat) : ∀ {n : Nat} {s : State}, s.CanCopy n →
    out0 ≤ s.bk.outTotal → s.bk.outTotal + n ≤ out0 + cap →
    Machine.decLoop params (some cap) out0 (fuel + n) s = Machine.decLoop params (some cap) out0 fuel (s.copied n)
  | 0, s, _, _, _ => by rw [State.copied_zero, Nat.add_zero]
  | n + 1, s, h, hstart, hlimit => by
    obtain ⟨hstep, hmore, hcopied⟩ := h.step
    have hopen : ¬s.bk.phase = .done := by rw [h.phase]; decide
    have hbelow : ¬(s.bk.phase.producing && s.capReached (some cap) out0) = true := by
      simp [State.capReached]
      omega
    rw [← Nat.add_assoc, Machine.decLoop, if_neg hopen, if_neg hbelow, hstep]
    dsimp only
    rw [hmore.decLoop fuel (Nat.le_succ_of_le hstart) (by show s.bk.outTotal + 1 + n ≤ _; omega), hcopied]

/-- With no byte at the source and the end not marked a stored block's micro-step holds (R301). -/
theorem State.Aligned.microStep_held (hs : s.Aligned) (hphase : s.bk.phase = .storedCopy) (hrem : s.bk.storedRem ≠ 0)
    (hsrc : s.port.src = []) (hlast : s.bk.last = false) : microStep params s = some (.hold s) := by
  have hnone : Bc.need 8 s.bc s.port.src = (s.bc, s.port.src) := by rw [hsrc, Bc.need]
  have hneed : s.setChannel (Bc.need 8 s.bc s.port.src) = s := by rw [hnone]; rfl
  have hstarved : s.need 8 = .hold s := by
    rw [State.need, hneed, hs.pending, if_pos (by decide), State.starve, hlast]
    rfl
  have hmicro : microStep params s = some (stepStoredCopy params s) := by rw [microStep, hphase]
  rw [hmicro, stepStoredCopy, if_neg hrem, State.read, State.peek, hstarved]
  rfl

/-- How the engine stops inside a stored block: at the limit, or at the end of the source. -/
theorem State.CanCopy.engine {cap : Nat} {st : FeedStatus} (h : s.CanCopy n) (hlimit : n ≤ cap)
    (hend : (cap = n ∧ st = .haveOutput) ∨ (n < cap ∧ st = .needMoreInput ∧ n < s.bk.storedRem ∧
      n = s.port.src.length ∧ s.bk.last = false)) :
    s.decEngine params (some cap) = .status st (s.copied n) := by
  obtain ⟨fuel, hfuel⟩ : ∃ fuel, s.engineFuel = fuel + 1 + n := by
    refine ⟨s.engineFuel - 1 - n, ?_⟩
    have hsource := h.source
    rw [State.engineFuel, State.bitsLeft]
    omega
  have hphase : (s.copied n).bk.phase = .storedCopy := h.phase
  have hopen : ¬(s.copied n).bk.phase = .done := by rw [hphase]; decide
  have hproducing : (s.copied n).bk.phase.producing = true := by rw [hphase]; rfl
  have hproduced : (s.copied n).bk.outTotal - s.bk.outTotal = n := Nat.add_sub_cancel_left _ _
  rw [State.decEngine, hfuel, h.decLoop (fuel + 1) (Nat.le_refl _) (Nat.add_le_add_left hlimit _), Machine.decLoop,
    if_neg hopen, hproducing, State.capReached, hproduced, Bool.true_and]
  rcases hend with ⟨rfl, rfl⟩ | ⟨hbelow, rfl, hrem, hall, hlast⟩
  · rw [if_pos (beq_self_eq_true _)]
  · have hmore : (s.copied n).bk.storedRem ≠ 0 := Nat.sub_ne_zero_of_lt hrem
    have hempty : (s.copied n).port.src = [] := List.drop_eq_nil_of_le (Nat.le_of_eq hall.symm)
    rw [if_neg (by simp; omega), (h.aligned.copied n).microStep_held hphase hmore hempty hlast]

end

/-! ### A stored block, and a stream of them (R305 to R309) -/

section
variable {s : State} {final : Bool} {piece rest : List Byte}

/-- The values of a stored block's header and lengths (R108). -/
theorem storedBlock_fields (final : Bool) {piece : List Byte} (hpiece : piece.length < 65536) (more : List Byte) :
    let src := storedBlockBytes final piece ++ more
    streamValue .lsbFirst src % 2 ^ 3 = final.toNat ∧
      streamValue .lsbFirst (src.drop 1) % 2 ^ 32 = piece.length + 2 ^ 16 * (65535 - piece.length) := by
  have hfinal : final.toNat < 2 := by cases final <;> decide
  have hnot : ∀ n, (~~~BitVec.ofNat 8 n).toNat = 255 - n % 256 := fun n => by rw [BitVec.toNat_not, BitVec.toNat_ofNat]
  simp only [storedBlockBytes, List.cons_append, List.nil_append, List.drop_succ_cons, List.drop_zero, streamValue,
    passes, BitVec.toNat_ofNat, hnot]
  generalize streamValue .lsbFirst (piece ++ more) = raw
  refine ⟨by omega, ?_⟩
  have hlengths : piece.length % 2 ^ 8 + 256 * (piece.length / 256 % 2 ^ 8 + 256 * (255 - piece.length % 256 +
      256 * (255 - piece.length / 256 % 256 + 256 * raw))) =
        piece.length + 2 ^ 16 * (65535 - piece.length) + 2 ^ 32 * raw := by omega
  rw [hlengths, Nat.add_mul_mod_self_left]
  omega

/-- A stored block is copied, and the next header or the end follows (R304 to R309). -/
theorem State.Aligned.storedBlock (hs : s.Aligned) (hphase : s.bk.phase = .header) (hpiece : piece.length < 65536)
    (hsrc : s.port.src = storedBlockBytes final piece ++ rest) :
    ∃ t, s.Runs t ∧ t.Aligned ∧ t.port.src = rest ∧ t.port.sink = s.port.sink ++ piece ∧
      t.bk.phase = if final then .done else .header := by
  obtain ⟨hheader, hlengths⟩ := storedBlock_fields final hpiece rest
  rw [← hsrc] at hheader hlengths
  have hlength : s.port.src.length = piece.length + 5 + rest.length := by
    rw [hsrc, List.length_append, length_storedBlockBytes]
  have hraw : s.port.src.drop 5 = piece ++ rest := by rw [hsrc]; rfl
  have hfinal : final.toNat / 2 = 0 ∧ (final.toNat % 2 == 1) = final := by cases final <;> decide
  have htotal := hs.total
  -- the header and the bits up to the byte boundary are one byte
  have hstep1 := microStep_header hs.reading hphase (by rw [hs.available]; omega)
  dsimp only at hstep1
  rw [hs.upcoming, hheader, hfinal.1, hfinal.2, if_pos rfl, show 3 + (8 - (s.bc.total + 3) % 8) % 8 = 8 * 1 by omega,
    hs.afterField (by decide) (by omega)] at hstep1
  set s1 : State := { s.afterBytes 1 with
    bk := { s.bk with final := final, kind := BitVec.ofNat 2 0, phase := .storedLen } }
  have haligned1 : s1.Aligned := (hs.afterBytes 1).setBk _
  have hsrc1 : s1.port.src = s.port.src.drop 1 := rfl
  have hlength1 : s1.port.src.length = piece.length + 4 + rest.length := by
    rw [hsrc1, List.length_drop]
    omega
  -- the lengths are four bytes
  have hstep2 := microStep_storedLen haligned1.reading rfl (by rw [haligned1.available]; omega)
  dsimp only at hstep2
  rw [haligned1.upcoming, hsrc1, hlengths, if_pos (by omega), show 32 = 8 * 4 from rfl,
    haligned1.afterField (by decide) (by omega),
    show (piece.length + 2 ^ 16 * (65535 - piece.length)) % 2 ^ 16 = piece.length by omega] at hstep2
  set s2 : State := { s1.afterBytes 4 with
    bk := { s1.bk with storedRem := piece.length, phase := .storedCopy } }
  have hsrc2 : s2.port.src = piece ++ rest := by
    show (s.port.src.drop 1).drop 4 = _
    rw [List.drop_drop, hraw]
  have hcopy : s2.CanCopy piece.length :=
    ⟨(haligned1.afterBytes 4).setBk _, rfl, Nat.le_refl _, by rw [hsrc2, List.length_append]; omega⟩
  have hstep3 := microStep_storedEnd (s := s2.copied piece.length) rfl (Nat.sub_self _)
  have haligned := hcopy.aligned.copied piece.length
  refine ⟨_, .step hstep1 (.step hstep2 (hcopy.runs.trans (.step hstep3 (.refl _)))),
    ⟨haligned.reading, haligned.order, haligned.pending⟩, ?_, ?_, rfl⟩
  · show s2.port.src.drop piece.length = rest
    rw [hsrc2, List.drop_left]
  · show s.port.sink ++ s2.port.src.take piece.length = s.port.sink ++ piece
    rw [hsrc2, List.take_left]

theorem State.Aligned.storedFile : ∀ (k : Nat) {s : State} {bytes : List Byte}, s.Aligned → s.bk.phase = .header →
    bytes.length ≤ 16384 * (k + 1) → s.port.src = storedFileFrom k bytes ++ rest →
    ∃ t, s.Runs t ∧ t.port.src = rest ∧ t.port.sink = s.port.sink ++ bytes ∧ t.bk.phase = .done
  | 0, s, bytes, hs, hphase, hbytes, hsrc => by
    obtain ⟨t, hruns, -, hrest, hsink, hdone⟩ := hs.storedBlock hphase (by omega) hsrc
    exact ⟨t, hruns, hrest, hsink, hdone⟩
  | k + 1, s, bytes, hs, hphase, hbytes, hsrc => by
    rw [storedFileFrom, List.append_assoc] at hsrc
    obtain ⟨t, hruns, ht, hnext, hsink, hheader⟩ := hs.storedBlock hphase (by rw [List.length_take]; omega) hsrc
    obtain ⟨u, hruns', hrest, hsink', hdone⟩ :=
      State.Aligned.storedFile k ht hheader (by rw [List.length_drop]; omega) hnext
    refine ⟨u, hruns.trans hruns', hrest, ?_, hdone⟩
    rw [hsink', hsink, List.append_assoc, List.take_append_drop]

end

/-! ### `BK_FEED` inside a stored block, and `BK_DECOMPRESS` of a stored stream (R346, R350) -/

section
variable {s t : State}

theorem Sw.pushAll_eq (w : Sw) (bytes : List Byte) :
    w.pushAll bytes = { w with win := (w.pushAll bytes).win, cursor := w.cursor + bytes.length } := by
  rw [← pushAll_cursor w bytes, ← pushAll_cap w bytes]

/-- The engine without a limit runs to the end of the stream (R300). -/
theorem State.Going.decEngine_done (hs : s.Going) (h : s.Runs t) (hdone : t.bk.phase = .done) : s.decEngine params none = .status .finished t := by
  suffices hloop : ∀ (out0 fuel : Nat), s.engineFuel ≤ fuel →
      Machine.decLoop params none out0 fuel s = .status .finished t from hloop _ _ (Nat.le_refl _)
  induction h with
  | refl s =>
    intro out0 fuel hfuel
    obtain ⟨fuel, rfl⟩ := Nat.exists_eq_succ_of_ne_zero (show fuel ≠ 0 by rw [State.engineFuel] at hfuel; omega)
    rw [Machine.decLoop, if_pos hdone]
  | @step s u t hstep _ ih =>
    intro out0 fuel hfuel
    have hless := hs.fuel hstep
    obtain ⟨fuel, rfl⟩ := Nat.exists_eq_succ_of_ne_zero (show fuel ≠ 0 by omega)
    have hopen : ¬s.bk.phase = .done := fun h => by
      rw [microStep_of_done h] at hstep
      cases hstep
    rw [Machine.decLoop, if_neg hopen, State.capReached, Bool.and_false, if_neg Bool.false_ne_true, hstep]
    exact ih (microStep_moves hstep).2 hdone out0 fuel (by omega)

/-- The state after a `BK_FEED` that has copied `n` bytes of a stored block (R345, R346). -/
def State.copyAnswered (s : State) (last : Bool) (n : Nat) (st : FeedStatus) : State :=
  { s with
    bc := { s.bc with total := s.bc.total + 8 * n, nbytes := s.bc.nbytes + n }
    sw := { s.sw with win := (s.sw.pushAll (s.port.src.take n)).win, cursor := s.sw.cursor + n }
    bk := { s.bk with
      storedRem := s.bk.storedRem - n, last := s.bk.last || last, outTotal := s.bk.outTotal + n
      inTotal := s.bk.inTotal + n }
    port := { s.port with src := s.port.src.drop n, sink := s.port.sink ++ s.port.src.take n } }.feedOk st n n

/-- A `BK_FEED` whose engine stops with `n` bytes of a stored block copied (R345, R346). -/
theorem State.feedDecode_copied {last : Bool} {outCap n : Nat} {st : FeedStatus} (hn : n ≤ s.port.src.length)
    (hnotDone : st ≠ .finished) (hfit : s.countersFit = true) (htotal : s.bc.total + 8 * n < 2 ^ 64)
    (hnbytes : s.bc.nbytes + n < 2 ^ 64) (hcursor : s.sw.cursor + n < 2 ^ 64) (hin : s.bk.inTotal + n < 2 ^ 64)
    (hout : s.bk.outTotal + n < 2 ^ 64)
    (hengine : (s.markLast last).decEngine params (some outCap) = .status st ((s.markLast last).copied n)) :
    s.feedDecode params last outCap = .next (s.copyAnswered last n st) := by
  have htaken : (s.port.src.take n).length = n := List.length_take_of_le hn
  have hsw := Sw.pushAll_eq s.sw (s.port.src.take n)
  rw [htaken] at hsw
  have hconsumed : ((s.markLast last).copied n).bc.nbytes - (s.markLast last).bc.nbytes = n :=
    Nat.add_sub_cancel_left _ _
  have hproduced : ((s.markLast last).copied n).bk.outTotal - (s.markLast last).bk.outTotal = n :=
    Nat.add_sub_cancel_left _ _
  obtain ⟨-, -, -, hpos, hknown, -, -, hstart, htok⟩ := (State.countersFit_iff s).mp hfit
  have hfit' : ((((s.markLast last).copied n).countIn n).feedOk st n n).countersFit = true := by
    rw [State.countersFit_iff]
    refine ⟨htotal, hnbytes, ?_, hpos, hknown, hin, hout, hstart, htok⟩
    show (s.sw.pushAll (s.port.src.take n)).cursor < 2 ^ 64
    rwa [pushAll_cursor, htaken]
  rw [State.feedDecode, hengine]
  dsimp only
  rw [hconsumed, hproduced, if_neg hnotDone, State.finish_of_fit hfit', State.copyAnswered, ← hsw]
  rfl

theorem exec_bkFeed_copied {last : Bool} {outCap : Word} {n : Nat} {st : FeedStatus} (hs : s.Inv)
    (hphase : s.bk.phase = .storedCopy) (hnbits : s.bc.nbits = 0) (hfit : s.countersFit = true)
    (htotal : s.bc.total + 8 * s.port.src.length + 64 < 2 ^ 64) (hin : s.bk.inTotal + s.port.src.length < 2 ^ 64)
    (hout : s.bk.outTotal + outCap.toNat < 2 ^ 64) (hblock : n ≤ s.bk.storedRem) (hsource : n ≤ s.port.src.length)
    (hlimit : n ≤ outCap.toNat)
    (hend : (outCap.toNat = n ∧ st = .haveOutput) ∨ (n < outCap.toNat ∧ st = .needMoreInput ∧ n < s.bk.storedRem ∧
      n = s.port.src.length ∧ (s.bk.last || last) = false)) :
    exec (.bkFeed last outCap) s = .next (s.copyAnswered last n st) := by
  have hdecoding : s.bk.phase.decoding = true := by rw [hphase]; rfl
  obtain ⟨hdir, hmode, horder, -, -, hcount⟩ := hs.decodes hdecoding
  have hopen : s.sessionOpen = true := by rw [State.sessionOpen, Phase.isOpen_eq, hdecoding]; rfl
  have haligned : s.Aligned := ⟨hs.reading hdecoding, horder, hnbits⟩
  have hcopy : (s.markLast last).CanCopy n := ⟨haligned.setBk _, hphase, hblock, hsource⟩
  obtain ⟨-, hbytes, -⟩ := (Bc.wf_read_iff hmode).mp hs.channel
  have hnotDone : st ≠ .finished := by
    rcases hend with ⟨-, rfl⟩ | ⟨-, rfl, -⟩ <;> decide
  have hfeed : exec (.bkFeed last outCap) s = s.feedDecode params last outCap.toNat := by
    rw [exec, execBkFeed, if_pos hopen, hdir]
  rw [hfeed]
  exact State.feedDecode_copied hsource hnotDone hfit (by omega) (by omega) (by omega) (by omega) (by omega)
    (hcopy.engine hlimit hend)

/-- A stored stream is copied whole, and what follows it stays at the source (R309, R331, R350). -/
theorem exec_bkDecompress_storedFile {bytes rest : List Byte} (hfit : s.countersFit = true)
    (hbytes : bytes.length < 2 ^ 32) (hsrc : s.port.src = storedFile bytes ++ rest) :
    ∃ t, exec .bkDecompress s = .next t ∧ t.port.sink = s.port.sink ++ bytes ∧ t.port.src = rest ∧ t.bk.phase = .done ∧
      t.port.responses = s.port.responses ++
        [okResponse (BitVec.ofNat 32 (storedFile bytes).length) (BitVec.ofNat 32 bytes.length)] := by
  have hgoing : s.decompressStart.Going := s.going_startDecode.markLast true
  have hport : s.decompressStart.port = s.port := s.startSession_port params .decode 0
  have haligned : s.decompressStart.Aligned := ⟨⟨Bc.wf_init _ _, rfl⟩, rfl, rfl⟩
  have hfile : (storedFile bytes).length = bytes.length + 5 * ((bytes.length - 1) / 16384 + 1) :=
    length_storedFileFrom _ bytes
  obtain ⟨u, hruns, hrest, hsink, hdone⟩ := haligned.storedFile ((bytes.length - 1) / 16384) (bytes := bytes)
    (rest := rest) rfl (by omega) (by rw [hport, hsrc, storedFile])
  obtain ⟨-, hcounts, -, -, -, hresponses, -⟩ := hruns.moved hgoing
  obtain ⟨taken, out, h⟩ := State.Counts.decompressed hfit hcounts
  rw [hport] at hsink hresponses
  have hout : out = bytes := List.append_cancel_left (h.sink.symm.trans hsink)
  have htaken : taken = (storedFile bytes).length := by
    have hleft := congrArg List.length (h.source.symm.trans hrest)
    have hle := h.taken_le
    rw [hsrc, List.length_drop, List.length_append] at hleft
    rw [hsrc, List.length_append] at hle
    omega
  subst hout htaken
  have hexec := exec_bkDecompress_finished (hgoing.decEngine_done hruns hdone) h (by omega) (by omega)
  exact ⟨_, hexec, h.sink, hrest, rfl, congrArg (· ++ [_]) hresponses⟩

end

/-- Settles O58: the micro-steps of a stored block copy byte by byte (`State.CanCopy.engine`), and a stream of stored
blocks is run block by block (`State.Aligned.storedFile`). -/
theorem storedBlocksAreCopied : Obligations.StoredBlocksAreCopied := by
  refine ⟨fun last outCap s hs hphase hnbits hfit htotal hin hout => ?_, fun s bytes rest => ?_⟩
  · intro answers
    refine ⟨fun hblock hsource => ?_, fun hblock hbelow hlast hmark => ?_⟩
    · exact exec_bkFeed_copied hs hphase hnbits hfit htotal hin hout hblock hsource (Nat.le_refl _) (.inl ⟨rfl, rfl⟩)
    · exact exec_bkFeed_copied hs hphase hnbits hfit htotal hin hout hblock.le (Nat.le_refl _) hbelow.le
        (.inr ⟨hbelow, rfl, hblock, rfl, by rw [hlast, hmark]; rfl⟩)
  · exact exec_bkDecompress_storedFile

end Sys2Proof.Machine
end
